-- ==== Sys2Proof/Word.lean ====
section
/-! DEFINITION. The word types of the machine: 32-bit words, 20-bit word addresses, 4-bit register specifiers, bytes of the
host's memory cells. -/

namespace Sys2Proof

/-- A word is 32 bits (00_scope.md section 5.1; R10, R60). -/
abbrev Word := BitVec 32

/-- A word address is 20 bits (R15, R41). -/
abbrev Addr := BitVec 20

/-- A register specifier is 4 bits (R61 to R63); it names a general register, or a special register in `movgs` and `movsg`. -/
abbrev RegId := BitVec 4

/-- The 16-bit immediate field of the I-type format (R61). -/
abbrev Imm16 := BitVec 16

/-- The 20-bit Address / Offset field of the J-type format (R63). -/
abbrev Imm20 := BitVec 20

/-- One byte of the host's memory cells; nothing of the instruction set sees one (R45). -/
abbrev Byte := BitVec 8

end Sys2Proof
end

