-- ==== Sys2Proof/Syntax.lean ====
section
/-! DEFINITION. The instructions of the machine, one constructor per row of spec/opcode_table.json in the table's order, and
the names of the encodings no instruction uses. The constructor `brk` is the instruction `break` (the name is a word of Lean). -/

namespace Sys2Proof

/-- The 71 instructions. Register operands are the 4-bit specifiers of the encoding, immediates the fields as they stand in
the word (R61 to R63); extension is the meaning's (R68). -/
inductive Instr where
  /-- `add Rd, Rs, Rt` (R100). -/
  | add (rd rs rt : RegId)
  /-- `addi Rd, Rs, Immediate` (R101). -/
  | addi (rd rs : RegId) (imm : Imm16)
  /-- `addu Rd, Rs, Rt` (R102). -/
  | addu (rd rs rt : RegId)
  /-- `addui Rd, Rs, Immediate` (R103). -/
  | addui (rd rs : RegId) (imm : Imm16)
  /-- `sub Rd, Rs, Rt` (R104). -/
  | sub (rd rs rt : RegId)
  /-- `subi Rd, Rs, Immediate` (R105). -/
  | subi (rd rs : RegId) (imm : Imm16)
  /-- `subu Rd, Rs, Rt` (R106). -/
  | subu (rd rs rt : RegId)
  /-- `subui Rd, Rs, Immediate` (R107). -/
  | subui (rd rs : RegId) (imm : Imm16)
  /-- `mult Rd, Rs, Rt` (R108). -/
  | mult (rd rs rt : RegId)
  /-- `multi Rd, Rs, Immediate` (R109). -/
  | multi (rd rs : RegId) (imm : Imm16)
  /-- `multu Rd, Rs, Rt` (R110). -/
  | multu (rd rs rt : RegId)
  /-- `multui Rd, Rs, Immediate` (R111). -/
  | multui (rd rs : RegId) (imm : Imm16)
  /-- `div Rd, Rs, Rt` (R112). -/
  | div (rd rs rt : RegId)
  /-- `divi Rd, Rs, Immediate` (R113). -/
  | divi (rd rs : RegId) (imm : Imm16)
  /-- `divu Rd, Rs, Rt` (R114). -/
  | divu (rd rs rt : RegId)
  /-- `divui Rd, Rs, Immediate` (R115). -/
  | divui (rd rs : RegId) (imm : Imm16)
  /-- `rem Rd, Rs, Rt` (R116). -/
  | rem (rd rs rt : RegId)
  /-- `remi Rd, Rs, Immediate` (R117). -/
  | remi (rd rs : RegId) (imm : Imm16)
  /-- `remu Rd, Rs, Rt` (R118). -/
  | remu (rd rs rt : RegId)
  /-- `remui Rd, Rs, Immediate` (R119). -/
  | remui (rd rs : RegId) (imm : Imm16)
  /-- `lhi Rd, Immediate` (R120). -/
  | lhi (rd : RegId) (imm : Imm16)
  /-- `la Rd, Address` (R121). -/
  | la (rd : RegId) (addr : Imm20)
  /-- `and Rd, Rs, Rt` (R130). -/
  | and (rd rs rt : RegId)
  /-- `andi Rd, Rs, Immediate` (R131). -/
  | andi (rd rs : RegId) (imm : Imm16)
  /-- `or Rd, Rs, Rt` (R132). -/
  | or (rd rs rt : RegId)
  /-- `ori Rd, Rs, Immediate` (R133). -/
  | ori (rd rs : RegId) (imm : Imm16)
  /-- `xor Rd, Rs, Rt` (R134). -/
  | xor (rd rs rt : RegId)
  /-- `xori Rd, Rs, Immediate` (R135). -/
  | xori (rd rs : RegId) (imm : Imm16)
  /-- `sll Rd, Rs, Rt` (R136). -/
  | sll (rd rs rt : RegId)
  /-- `slli Rd, Rs, Immediate` (R137). -/
  | slli (rd rs : RegId) (imm : Imm16)
  /-- `srl Rd, Rs, Rt` (R138). -/
  | srl (rd rs rt : RegId)
  /-- `srli Rd, Rs, Immediate` (R139). -/
  | srli (rd rs : RegId) (imm : Imm16)
  /-- `sra Rd, Rs, Rt` (R140). -/
  | sra (rd rs rt : RegId)
  /-- `srai Rd, Rs, Immediate` (R141). -/
  | srai (rd rs : RegId) (imm : Imm16)
  /-- `slt Rd, Rs, Rt` (R150). -/
  | slt (rd rs rt : RegId)
  /-- `slti Rd, Rs, Immediate` (R151). -/
  | slti (rd rs : RegId) (imm : Imm16)
  /-- `sltu Rd, Rs, Rt` (R152). -/
  | sltu (rd rs rt : RegId)
  /-- `sltui Rd, Rs, Immediate` (R153). -/
  | sltui (rd rs : RegId) (imm : Imm16)
  /-- `sgt Rd, Rs, Rt` (R154). -/
  | sgt (rd rs rt : RegId)
  /-- `sgti Rd, Rs, Immediate` (R155). -/
  | sgti (rd rs : RegId) (imm : Imm16)
  /-- `sgtu Rd, Rs, Rt` (R156). -/
  | sgtu (rd rs rt : RegId)
  /-- `sgtui Rd, Rs, Immediate` (R157). -/
  | sgtui (rd rs : RegId) (imm : Imm16)
  /-- `sle Rd, Rs, Rt` (R158). -/
  | sle (rd rs rt : RegId)
  /-- `slei Rd, Rs, Immediate` (R159). -/
  | slei (rd rs : RegId) (imm : Imm16)
  /-- `sleu Rd, Rs, Rt` (R160). -/
  | sleu (rd rs rt : RegId)
  /-- `sleui Rd, Rs, Immediate` (R161). -/
  | sleui (rd rs : RegId) (imm : Imm16)
  /-- `sge Rd, Rs, Rt` (R162). -/
  | sge (rd rs rt : RegId)
  /-- `sgei Rd, Rs, Immediate` (R163). -/
  | sgei (rd rs : RegId) (imm : Imm16)
  /-- `sgeu Rd, Rs, Rt` (R164). -/
  | sgeu (rd rs rt : RegId)
  /-- `sgeui Rd, Rs, Immediate` (R165). -/
  | sgeui (rd rs : RegId) (imm : Imm16)
  /-- `seq Rd, Rs, Rt` (R166). -/
  | seq (rd rs rt : RegId)
  /-- `seqi Rd, Rs, Immediate` (R167). -/
  | seqi (rd rs : RegId) (imm : Imm16)
  /-- `sequ Rd, Rs, Rt` (R168). -/
  | sequ (rd rs rt : RegId)
  /-- `sequi Rd, Rs, Immediate` (R169). -/
  | sequi (rd rs : RegId) (imm : Imm16)
  /-- `sne Rd, Rs, Rt` (R170). -/
  | sne (rd rs rt : RegId)
  /-- `snei Rd, Rs, Immediate` (R171). -/
  | snei (rd rs : RegId) (imm : Imm16)
  /-- `sneu Rd, Rs, Rt` (R172). -/
  | sneu (rd rs rt : RegId)
  /-- `sneui Rd, Rs, Immediate` (R173). -/
  | sneui (rd rs : RegId) (imm : Imm16)
  /-- `j Address` (R180). -/
  | j (addr : Imm20)
  /-- `jr Rs` (R181). -/
  | jr (rs : RegId)
  /-- `jal Address` (R182). -/
  | jal (addr : Imm20)
  /-- `jalr Rs` (R183). -/
  | jalr (rs : RegId)
  /-- `beqz Rs, Offset` (R184). -/
  | beqz (rs : RegId) (off : Imm20)
  /-- `bnez Rs, Offset` (R185). -/
  | bnez (rs : RegId) (off : Imm20)
  /-- `lw Rd, Offset(Rs)` (R190). -/
  | lw (rd rs : RegId) (off : Imm20)
  /-- `sw Rd, Offset(Rs)` (R191). -/
  | sw (rd rs : RegId) (off : Imm20)
  /-- `movgs Rd, Rs` (R195). -/
  | movgs (rd rs : RegId)
  /-- `movsg Rd, Rs` (R196). -/
  | movsg (rd rs : RegId)
  /-- `break` (R197). -/
  | brk
  /-- `syscall` (R198). -/
  | syscall
  /-- `rfe` (R199). -/
  | rfe
  deriving DecidableEq, Repr

/-- Why a word is no instruction (R70, R71): each of the three raises `IllegalInstruction` when the word is executed. -/
inductive DecodeError where
  /-- OPcode 1101, 1110 or 1111 (R70). -/
  | unusedOpcode
  /-- Func 1111 under OPcode 0010 or 0011 (R70). -/
  | unusedFunction
  /-- A constant field of the instruction that is not zero (R71). -/
  | fixedFieldNotZero
  deriving DecidableEq, Repr

end Sys2Proof
end

