-- ==== Sys2Proof/Decode.lean ====
section
/-! DEFINITION. The decoder, total on every word and rejecting by name; after it the encoder, and the opcode table's rows, each
written from the spec's encoding tables (R61 to R71). Bit 31 is the leftmost bit of every pattern (D1). -/

namespace Sys2Proof

/-- OPcode, bits 31:28 (R61 to R63). -/
def fieldOp (w : Word) : BitVec 4 := w.extractLsb' 28 4
/-- Rd, bits 27:24 (R61 to R63). -/
def fieldRd (w : Word) : RegId := w.extractLsb' 24 4
/-- Rs, bits 23:20 (R61 to R63). -/
def fieldRs (w : Word) : RegId := w.extractLsb' 20 4
/-- Func, bits 19:16, of the R-type and I-type formats (R61, R62). -/
def fieldFunc (w : Word) : BitVec 4 := w.extractLsb' 16 4
/-- The constant field of the R-type format, bits 15:4 (R62). -/
def fieldZero (w : Word) : BitVec 12 := w.extractLsb' 4 12
/-- Rt, bits 3:0, of the R-type format (R62). -/
def fieldRt (w : Word) : RegId := w.extractLsb' 0 4
/-- Immediate, bits 15:0, of the I-type format (R61). -/
def fieldImm (w : Word) : Imm16 := w.extractLsb' 0 16
/-- Address / Offset, bits 19:0, of the J-type format (R63). -/
def fieldAddr (w : Word) : Imm20 := w.extractLsb' 0 20

/-- The fixed-field check: the constant bits are part of the pattern (R71). -/
def requireZero (fixedBitsZero : Bool) (i : Instr) : Except DecodeError Instr :=
  if fixedBitsZero then .ok i else .error .fixedFieldNotZero

/-- OPcode 0000: the operation a Func value selects; all sixteen values are used (R65). -/
def aluRegister (fn : BitVec 4) (rd rs rt : RegId) : Instr :=
  match fn with
  | 0x0#4 => .add rd rs rt
  | 0x1#4 => .addu rd rs rt
  | 0x2#4 => .sub rd rs rt
  | 0x3#4 => .subu rd rs rt
  | 0x4#4 => .mult rd rs rt
  | 0x5#4 => .multu rd rs rt
  | 0x6#4 => .div rd rs rt
  | 0x7#4 => .divu rd rs rt
  | 0x8#4 => .rem rd rs rt
  | 0x9#4 => .remu rd rs rt
  | 0xA#4 => .sll rd rs rt
  | 0xB#4 => .and rd rs rt
  | 0xC#4 => .srl rd rs rt
  | 0xD#4 => .or rd rs rt
  | 0xE#4 => .sra rd rs rt
  | _ => .xor rd rs rt -- 0xF, the one value left

/-- OPcode 0001: the operation a Func value selects; all sixteen values are used (R65). -/
def aluImmediate (fn : BitVec 4) (rd rs : RegId) (imm : Imm16) : Instr :=
  match fn with
  | 0x0#4 => .addi rd rs imm
  | 0x1#4 => .addui rd rs imm
  | 0x2#4 => .subi rd rs imm
  | 0x3#4 => .subui rd rs imm
  | 0x4#4 => .multi rd rs imm
  | 0x5#4 => .multui rd rs imm
  | 0x6#4 => .divi rd rs imm
  | 0x7#4 => .divui rd rs imm
  | 0x8#4 => .remi rd rs imm
  | 0x9#4 => .remui rd rs imm
  | 0xA#4 => .slli rd rs imm
  | 0xB#4 => .andi rd rs imm
  | 0xC#4 => .srli rd rs imm
  | 0xD#4 => .ori rd rs imm
  | 0xE#4 => .srai rd rs imm
  | _ => .xori rd rs imm -- 0xF, the one value left

/-- OPcode 0010: the tests at Func 0000 to 1011, `break`, `syscall` and `rfe` at 1100 to 1110, 1111 unused (R66). -/
def decodeOp2 (w : Word) : Except DecodeError Instr :=
  let rd := fieldRd w
  let rs := fieldRs w
  let rt := fieldRt w
  let zero := fieldZero w == 0#12
  let noOperand := rd == 0#4 && rs == 0#4 && fieldImm w == 0#16
  match fieldFunc w with
  | 0x0#4 => requireZero zero (.slt rd rs rt)
  | 0x1#4 => requireZero zero (.sltu rd rs rt)
  | 0x2#4 => requireZero zero (.sgt rd rs rt)
  | 0x3#4 => requireZero zero (.sgtu rd rs rt)
  | 0x4#4 => requireZero zero (.sle rd rs rt)
  | 0x5#4 => requireZero zero (.sleu rd rs rt)
  | 0x6#4 => requireZero zero (.sge rd rs rt)
  | 0x7#4 => requireZero zero (.sgeu rd rs rt)
  | 0x8#4 => requireZero zero (.seq rd rs rt)
  | 0x9#4 => requireZero zero (.sequ rd rs rt)
  | 0xA#4 => requireZero zero (.sne rd rs rt)
  | 0xB#4 => requireZero zero (.sneu rd rs rt)
  | 0xC#4 => requireZero noOperand .brk
  | 0xD#4 => requireZero noOperand .syscall
  | 0xE#4 => requireZero noOperand .rfe
  | _ => .error .unusedFunction

/-- OPcode 0011: the tests with an immediate at Func 0000 to 1011, `movgs`, `movsg` and `lhi` at 1100 to 1110, 1111 unused
(R66). -/
def decodeOp3 (w : Word) : Except DecodeError Instr :=
  let rd := fieldRd w
  let rs := fieldRs w
  let imm := fieldImm w
  match fieldFunc w with
  | 0x0#4 => .ok (.slti rd rs imm)
  | 0x1#4 => .ok (.sltui rd rs imm)
  | 0x2#4 => .ok (.sgti rd rs imm)
  | 0x3#4 => .ok (.sgtui rd rs imm)
  | 0x4#4 => .ok (.slei rd rs imm)
  | 0x5#4 => .ok (.sleui rd rs imm)
  | 0x6#4 => .ok (.sgei rd rs imm)
  | 0x7#4 => .ok (.sgeui rd rs imm)
  | 0x8#4 => .ok (.seqi rd rs imm)
  | 0x9#4 => .ok (.sequi rd rs imm)
  | 0xA#4 => .ok (.snei rd rs imm)
  | 0xB#4 => .ok (.sneui rd rs imm)
  | 0xC#4 => requireZero (imm == 0#16) (.movgs rd rs)
  | 0xD#4 => requireZero (imm == 0#16) (.movsg rd rs)
  | 0xE#4 => requireZero (rs == 0#4) (.lhi rd imm)
  | _ => .error .unusedFunction

/-- The decoding procedure (R69): the instruction a word stands for, or why it stands for none. -/
def decode (w : Word) : Except DecodeError Instr :=
  let rd := fieldRd w
  let rs := fieldRs w
  let addr := fieldAddr w
  match fieldOp w with
  | 0x0#4 => requireZero (fieldZero w == 0#12) (aluRegister (fieldFunc w) rd rs (fieldRt w))
  | 0x1#4 => .ok (aluImmediate (fieldFunc w) rd rs (fieldImm w))
  | 0x2#4 => decodeOp2 w
  | 0x3#4 => decodeOp3 w
  | 0x4#4 => requireZero (rd == 0#4 && rs == 0#4) (.j addr)
  | 0x5#4 => requireZero (rd == 0#4 && addr == 0#20) (.jr rs)
  | 0x6#4 => requireZero (rd == 0#4 && rs == 0#4) (.jal addr)
  | 0x7#4 => requireZero (rd == 0#4 && addr == 0#20) (.jalr rs)
  | 0x8#4 => .ok (.lw rd rs addr)
  | 0x9#4 => .ok (.sw rd rs addr)
  | 0xA#4 => requireZero (rd == 0#4) (.beqz rs addr)
  | 0xB#4 => requireZero (rd == 0#4) (.bnez rs addr)
  | 0xC#4 => requireZero (rs == 0#4) (.la rd addr)
  | _ => .error .unusedOpcode

/-- An R-type word (R62). -/
def wordR (op fn : BitVec 4) (rd rs rt : RegId) : Word := op ++ rd ++ rs ++ fn ++ 0#12 ++ rt

/-- An I-type word (R61). -/
def wordI (op fn : BitVec 4) (rd rs : RegId) (imm : Imm16) : Word := op ++ rd ++ rs ++ fn ++ imm

/-- A J-type word (R63). -/
def wordJ (op : BitVec 4) (rd rs : RegId) (addr : Imm20) : Word := op ++ rd ++ rs ++ addr

/-- The word of an instruction (R64 to R67). -/
def encode : Instr → Word
  | .add rd rs rt => wordR 0x0#4 0x0#4 rd rs rt
  | .addi rd rs imm => wordI 0x1#4 0x0#4 rd rs imm
  | .addu rd rs rt => wordR 0x0#4 0x1#4 rd rs rt
  | .addui rd rs imm => wordI 0x1#4 0x1#4 rd rs imm
  | .sub rd rs rt => wordR 0x0#4 0x2#4 rd rs rt
  | .subi rd rs imm => wordI 0x1#4 0x2#4 rd rs imm
  | .subu rd rs rt => wordR 0x0#4 0x3#4 rd rs rt
  | .subui rd rs imm => wordI 0x1#4 0x3#4 rd rs imm
  | .mult rd rs rt => wordR 0x0#4 0x4#4 rd rs rt
  | .multi rd rs imm => wordI 0x1#4 0x4#4 rd rs imm
  | .multu rd rs rt => wordR 0x0#4 0x5#4 rd rs rt
  | .multui rd rs imm => wordI 0x1#4 0x5#4 rd rs imm
  | .div rd rs rt => wordR 0x0#4 0x6#4 rd rs rt
  | .divi rd rs imm => wordI 0x1#4 0x6#4 rd rs imm
  | .divu rd rs rt => wordR 0x0#4 0x7#4 rd rs rt
  | .divui rd rs imm => wordI 0x1#4 0x7#4 rd rs imm
  | .rem rd rs rt => wordR 0x0#4 0x8#4 rd rs rt
  | .remi rd rs imm => wordI 0x1#4 0x8#4 rd rs imm
  | .remu rd rs rt => wordR 0x0#4 0x9#4 rd rs rt
  | .remui rd rs imm => wordI 0x1#4 0x9#4 rd rs imm
  | .lhi rd imm => wordI 0x3#4 0xE#4 rd 0#4 imm
  | .la rd addr => wordJ 0xC#4 rd 0#4 addr
  | .and rd rs rt => wordR 0x0#4 0xB#4 rd rs rt
  | .andi rd rs imm => wordI 0x1#4 0xB#4 rd rs imm
  | .or rd rs rt => wordR 0x0#4 0xD#4 rd rs rt
  | .ori rd rs imm => wordI 0x1#4 0xD#4 rd rs imm
  | .xor rd rs rt => wordR 0x0#4 0xF#4 rd rs rt
  | .xori rd rs imm => wordI 0x1#4 0xF#4 rd rs imm
  | .sll rd rs rt => wordR 0x0#4 0xA#4 rd rs rt
  | .slli rd rs imm => wordI 0x1#4 0xA#4 rd rs imm
  | .srl rd rs rt => wordR 0x0#4 0xC#4 rd rs rt
  | .srli rd rs imm => wordI 0x1#4 0xC#4 rd rs imm
  | .sra rd rs rt => wordR 0x0#4 0xE#4 rd rs rt
  | .srai rd rs imm => wordI 0x1#4 0xE#4 rd rs imm
  | .slt rd rs rt => wordR 0x2#4 0x0#4 rd rs rt
  | .slti rd rs imm => wordI 0x3#4 0x0#4 rd rs imm
  | .sltu rd rs rt => wordR 0x2#4 0x1#4 rd rs rt
  | .sltui rd rs imm => wordI 0x3#4 0x1#4 rd rs imm
  | .sgt rd rs rt => wordR 0x2#4 0x2#4 rd rs rt
  | .sgti rd rs imm => wordI 0x3#4 0x2#4 rd rs imm
  | .sgtu rd rs rt => wordR 0x2#4 0x3#4 rd rs rt
  | .sgtui rd rs imm => wordI 0x3#4 0x3#4 rd rs imm
  | .sle rd rs rt => wordR 0x2#4 0x4#4 rd rs rt
  | .slei rd rs imm => wordI 0x3#4 0x4#4 rd rs imm
  | .sleu rd rs rt => wordR 0x2#4 0x5#4 rd rs rt
  | .sleui rd rs imm => wordI 0x3#4 0x5#4 rd rs imm
  | .sge rd rs rt => wordR 0x2#4 0x6#4 rd rs rt
  | .sgei rd rs imm => wordI 0x3#4 0x6#4 rd rs imm
  | .sgeu rd rs rt => wordR 0x2#4 0x7#4 rd rs rt
  | .sgeui rd rs imm => wordI 0x3#4 0x7#4 rd rs imm
  | .seq rd rs rt => wordR 0x2#4 0x8#4 rd rs rt
  | .seqi rd rs imm => wordI 0x3#4 0x8#4 rd rs imm
  | .sequ rd rs rt => wordR 0x2#4 0x9#4 rd rs rt
  | .sequi rd rs imm => wordI 0x3#4 0x9#4 rd rs imm
  | .sne rd rs rt => wordR 0x2#4 0xA#4 rd rs rt
  | .snei rd rs imm => wordI 0x3#4 0xA#4 rd rs imm
  | .sneu rd rs rt => wordR 0x2#4 0xB#4 rd rs rt
  | .sneui rd rs imm => wordI 0x3#4 0xB#4 rd rs imm
  | .j addr => wordJ 0x4#4 0#4 0#4 addr
  | .jr rs => wordJ 0x5#4 0#4 rs 0#20
  | .jal addr => wordJ 0x6#4 0#4 0#4 addr
  | .jalr rs => wordJ 0x7#4 0#4 rs 0#20
  | .beqz rs off => wordJ 0xA#4 0#4 rs off
  | .bnez rs off => wordJ 0xB#4 0#4 rs off
  | .lw rd rs off => wordJ 0x8#4 rd rs off
  | .sw rd rs off => wordJ 0x9#4 rd rs off
  | .movgs rd rs => wordI 0x3#4 0xC#4 rd rs 0#16
  | .movsg rd rs => wordI 0x3#4 0xD#4 rd rs 0#16
  | .brk => wordR 0x2#4 0xC#4 0#4 0#4 0#4
  | .syscall => wordR 0x2#4 0xD#4 0#4 0#4 0#4
  | .rfe => wordR 0x2#4 0xE#4 0#4 0#4 0#4

/-- One row of spec/opcode_table.json: a word is the row's instruction when its bits under `mask` are `pattern` (R69). -/
structure OpcodeRow where
  mask : Word
  pattern : Word
  deriving DecidableEq, Repr

/-- The row of spec/opcode_table.json an instruction belongs to. -/
def Instr.row : Instr → OpcodeRow
  | .add _ _ _ => ⟨0xF00FFFF0#32, 0x00000000#32⟩
  | .addi _ _ _ => ⟨0xF00F0000#32, 0x10000000#32⟩
  | .addu _ _ _ => ⟨0xF00FFFF0#32, 0x00010000#32⟩
  | .addui _ _ _ => ⟨0xF00F0000#32, 0x10010000#32⟩
  | .sub _ _ _ => ⟨0xF00FFFF0#32, 0x00020000#32⟩
  | .subi _ _ _ => ⟨0xF00F0000#32, 0x10020000#32⟩
  | .subu _ _ _ => ⟨0xF00FFFF0#32, 0x00030000#32⟩
  | .subui _ _ _ => ⟨0xF00F0000#32, 0x10030000#32⟩
  | .mult _ _ _ => ⟨0xF00FFFF0#32, 0x00040000#32⟩
  | .multi _ _ _ => ⟨0xF00F0000#32, 0x10040000#32⟩
  | .multu _ _ _ => ⟨0xF00FFFF0#32, 0x00050000#32⟩
  | .multui _ _ _ => ⟨0xF00F0000#32, 0x10050000#32⟩
  | .div _ _ _ => ⟨0xF00FFFF0#32, 0x00060000#32⟩
  | .divi _ _ _ => ⟨0xF00F0000#32, 0x10060000#32⟩
  | .divu _ _ _ => ⟨0xF00FFFF0#32, 0x00070000#32⟩
  | .divui _ _ _ => ⟨0xF00F0000#32, 0x10070000#32⟩
  | .rem _ _ _ => ⟨0xF00FFFF0#32, 0x00080000#32⟩
  | .remi _ _ _ => ⟨0xF00F0000#32, 0x10080000#32⟩
  | .remu _ _ _ => ⟨0xF00FFFF0#32, 0x00090000#32⟩
  | .remui _ _ _ => ⟨0xF00F0000#32, 0x10090000#32⟩
  | .lhi _ _ => ⟨0xF0FF0000#32, 0x300E0000#32⟩
  | .la _ _ => ⟨0xF0F00000#32, 0xC0000000#32⟩
  | .and _ _ _ => ⟨0xF00FFFF0#32, 0x000B0000#32⟩
  | .andi _ _ _ => ⟨0xF00F0000#32, 0x100B0000#32⟩
  | .or _ _ _ => ⟨0xF00FFFF0#32, 0x000D0000#32⟩
  | .ori _ _ _ => ⟨0xF00F0000#32, 0x100D0000#32⟩
  | .xor _ _ _ => ⟨0xF00FFFF0#32, 0x000F0000#32⟩
  | .xori _ _ _ => ⟨0xF00F0000#32, 0x100F0000#32⟩
  | .sll _ _ _ => ⟨0xF00FFFF0#32, 0x000A0000#32⟩
  | .slli _ _ _ => ⟨0xF00F0000#32, 0x100A0000#32⟩
  | .srl _ _ _ => ⟨0xF00FFFF0#32, 0x000C0000#32⟩
  | .srli _ _ _ => ⟨0xF00F0000#32, 0x100C0000#32⟩
  | .sra _ _ _ => ⟨0xF00FFFF0#32, 0x000E0000#32⟩
  | .srai _ _ _ => ⟨0xF00F0000#32, 0x100E0000#32⟩
  | .slt _ _ _ => ⟨0xF00FFFF0#32, 0x20000000#32⟩
  | .slti _ _ _ => ⟨0xF00F0000#32, 0x30000000#32⟩
  | .sltu _ _ _ => ⟨0xF00FFFF0#32, 0x20010000#32⟩
  | .sltui _ _ _ => ⟨0xF00F0000#32, 0x30010000#32⟩
  | .sgt _ _ _ => ⟨0xF00FFFF0#32, 0x20020000#32⟩
  | .sgti _ _ _ => ⟨0xF00F0000#32, 0x30020000#32⟩
  | .sgtu _ _ _ => ⟨0xF00FFFF0#32, 0x20030000#32⟩
  | .sgtui _ _ _ => ⟨0xF00F0000#32, 0x30030000#32⟩
  | .sle _ _ _ => ⟨0xF00FFFF0#32, 0x20040000#32⟩
  | .slei _ _ _ => ⟨0xF00F0000#32, 0x30040000#32⟩
  | .sleu _ _ _ => ⟨0xF00FFFF0#32, 0x20050000#32⟩
  | .sleui _ _ _ => ⟨0xF00F0000#32, 0x30050000#32⟩
  | .sge _ _ _ => ⟨0xF00FFFF0#32, 0x20060000#32⟩
  | .sgei _ _ _ => ⟨0xF00F0000#32, 0x30060000#32⟩
  | .sgeu _ _ _ => ⟨0xF00FFFF0#32, 0x20070000#32⟩
  | .sgeui _ _ _ => ⟨0xF00F0000#32, 0x30070000#32⟩
  | .seq _ _ _ => ⟨0xF00FFFF0#32, 0x20080000#32⟩
  | .seqi _ _ _ => ⟨0xF00F0000#32, 0x30080000#32⟩
  | .sequ _ _ _ => ⟨0xF00FFFF0#32, 0x20090000#32⟩
  | .sequi _ _ _ => ⟨0xF00F0000#32, 0x30090000#32⟩
  | .sne _ _ _ => ⟨0xF00FFFF0#32, 0x200A0000#32⟩
  | .snei _ _ _ => ⟨0xF00F0000#32, 0x300A0000#32⟩
  | .sneu _ _ _ => ⟨0xF00FFFF0#32, 0x200B0000#32⟩
  | .sneui _ _ _ => ⟨0xF00F0000#32, 0x300B0000#32⟩
  | .j _ => ⟨0xFFF00000#32, 0x40000000#32⟩
  | .jr _ => ⟨0xFF0FFFFF#32, 0x50000000#32⟩
  | .jal _ => ⟨0xFFF00000#32, 0x60000000#32⟩
  | .jalr _ => ⟨0xFF0FFFFF#32, 0x70000000#32⟩
  | .beqz _ _ => ⟨0xFF000000#32, 0xA0000000#32⟩
  | .bnez _ _ => ⟨0xFF000000#32, 0xB0000000#32⟩
  | .lw _ _ _ => ⟨0xF0000000#32, 0x80000000#32⟩
  | .sw _ _ _ => ⟨0xF0000000#32, 0x90000000#32⟩
  | .movgs _ _ => ⟨0xF00FFFFF#32, 0x300C0000#32⟩
  | .movsg _ _ => ⟨0xF00FFFFF#32, 0x300D0000#32⟩
  | .brk => ⟨0xFFFFFFFF#32, 0x200C0000#32⟩
  | .syscall => ⟨0xFFFFFFFF#32, 0x200D0000#32⟩
  | .rfe => ⟨0xFFFFFFFF#32, 0x200E0000#32⟩

/-- Every row of spec/opcode_table.json, in the table's order. -/
def opcodeRows : List OpcodeRow :=
  [⟨0xF00FFFF0#32, 0x00000000#32⟩,
   ⟨0xF00F0000#32, 0x10000000#32⟩,
   ⟨0xF00FFFF0#32, 0x00010000#32⟩,
   ⟨0xF00F0000#32, 0x10010000#32⟩,
   ⟨0xF00FFFF0#32, 0x00020000#32⟩,
   ⟨0xF00F0000#32, 0x10020000#32⟩,
   ⟨0xF00FFFF0#32, 0x00030000#32⟩,
   ⟨0xF00F0000#32, 0x10030000#32⟩,
   ⟨0xF00FFFF0#32, 0x00040000#32⟩,
   ⟨0xF00F0000#32, 0x10040000#32⟩,
   ⟨0xF00FFFF0#32, 0x00050000#32⟩,
   ⟨0xF00F0000#32, 0x10050000#32⟩] ++
  [⟨0xF00FFFF0#32, 0x00060000#32⟩,
   ⟨0xF00F0000#32, 0x10060000#32⟩,
   ⟨0xF00FFFF0#32, 0x00070000#32⟩,
   ⟨0xF00F0000#32, 0x10070000#32⟩,
   ⟨0xF00FFFF0#32, 0x00080000#32⟩,
   ⟨0xF00F0000#32, 0x10080000#32⟩,
   ⟨0xF00FFFF0#32, 0x00090000#32⟩,
   ⟨0xF00F0000#32, 0x10090000#32⟩,
   ⟨0xF0FF0000#32, 0x300E0000#32⟩,
   ⟨0xF0F00000#32, 0xC0000000#32⟩,
   ⟨0xF00FFFF0#32, 0x000B0000#32⟩,
   ⟨0xF00F0000#32, 0x100B0000#32⟩] ++
  [⟨0xF00FFFF0#32, 0x000D0000#32⟩,
   ⟨0xF00F0000#32, 0x100D0000#32⟩,
   ⟨0xF00FFFF0#32, 0x000F0000#32⟩,
   ⟨0xF00F0000#32, 0x100F0000#32⟩,
   ⟨0xF00FFFF0#32, 0x000A0000#32⟩,
   ⟨0xF00F0000#32, 0x100A0000#32⟩,
   ⟨0xF00FFFF0#32, 0x000C0000#32⟩,
   ⟨0xF00F0000#32, 0x100C0000#32⟩,
   ⟨0xF00FFFF0#32, 0x000E0000#32⟩,
   ⟨0xF00F0000#32, 0x100E0000#32⟩,
   ⟨0xF00FFFF0#32, 0x20000000#32⟩,
   ⟨0xF00F0000#32, 0x30000000#32⟩] ++
  [⟨0xF00FFFF0#32, 0x20010000#32⟩,
   ⟨0xF00F0000#32, 0x30010000#32⟩,
   ⟨0xF00FFFF0#32, 0x20020000#32⟩,
   ⟨0xF00F0000#32, 0x30020000#32⟩,
   ⟨0xF00FFFF0#32, 0x20030000#32⟩,
   ⟨0xF00F0000#32, 0x30030000#32⟩,
   ⟨0xF00FFFF0#32, 0x20040000#32⟩,
   ⟨0xF00F0000#32, 0x30040000#32⟩,
   ⟨0xF00FFFF0#32, 0x20050000#32⟩,
   ⟨0xF00F0000#32, 0x30050000#32⟩,
   ⟨0xF00FFFF0#32, 0x20060000#32⟩,
   ⟨0xF00F0000#32, 0x30060000#32⟩] ++
  [⟨0xF00FFFF0#32, 0x20070000#32⟩,
   ⟨0xF00F0000#32, 0x30070000#32⟩,
   ⟨0xF00FFFF0#32, 0x20080000#32⟩,
   ⟨0xF00F0000#32, 0x30080000#32⟩,
   ⟨0xF00FFFF0#32, 0x20090000#32⟩,
   ⟨0xF00F0000#32, 0x30090000#32⟩,
   ⟨0xF00FFFF0#32, 0x200A0000#32⟩,
   ⟨0xF00F0000#32, 0x300A0000#32⟩,
   ⟨0xF00FFFF0#32, 0x200B0000#32⟩,
   ⟨0xF00F0000#32, 0x300B0000#32⟩,
   ⟨0xFFF00000#32, 0x40000000#32⟩,
   ⟨0xFF0FFFFF#32, 0x50000000#32⟩] ++
  [⟨0xFFF00000#32, 0x60000000#32⟩,
   ⟨0xFF0FFFFF#32, 0x70000000#32⟩,
   ⟨0xFF000000#32, 0xA0000000#32⟩,
   ⟨0xFF000000#32, 0xB0000000#32⟩,
   ⟨0xF0000000#32, 0x80000000#32⟩,
   ⟨0xF0000000#32, 0x90000000#32⟩,
   ⟨0xF00FFFFF#32, 0x300C0000#32⟩,
   ⟨0xF00FFFFF#32, 0x300D0000#32⟩,
   ⟨0xFFFFFFFF#32, 0x200C0000#32⟩,
   ⟨0xFFFFFFFF#32, 0x200D0000#32⟩,
   ⟨0xFFFFFFFF#32, 0x200E0000#32⟩]

/-- The instruction the decoder reads from an instruction of `nbits` bits given as the number `w`; every instruction is one
word of 32 bits (R60), and bits from `nbits` on are zero. -/
def decodeTableWord (nbits w : Nat) : Option Instr :=
  match decode (BitVec.ofNat 32 (w % 2 ^ nbits)) with
  | .ok i => some i
  | .error _ => none

end Sys2Proof
end

