-- ==== Sys2Proof/Config.lean ====
section
/-! DEFINITION. The open parameters of the spec (00_scope.md section 4, 92_eei_decisions.md) that the model leaves free, as
constants without a body, and the types they are stated in. The parameters the model instantiates stand in
Machine/Platform.lean. -/

namespace Sys2Proof.Config

/-- The synchronous exceptions: the four the source names and the two the spec introduces (R210), and the fault that
UserAccess may give (R55; PRESUMED that it is taken as an exception, log 15). -/
inductive Exc where
  | overflow
  | divideByZero
  | breakpoint
  | systemCall
  | illegalInstruction
  | privilegeViolation
  | accessViolation
  deriving DecidableEq, Repr

/-- What trap entry is performed for: an exception, or an interrupt with the set of deliverable lines (R225, R230). -/
inductive Cause where
  | exception (e : Exc)
  | interrupt (lines : BitVec 8)
  deriving DecidableEq, Repr

/-- The kinds of memory access UserAccess distinguishes (R55, D24). -/
inductive AccessKind where
  | fetch
  | load
  | store
  deriving DecidableEq, Repr

/-- What UserAccess answers: an address to use, or a fault (R55). -/
inductive UserResult where
  | physical (a : Addr)
  | violation
  deriving DecidableEq, Repr, Inhabited

/-- What `sdiv_min_by_minus1` may be: a quotient and a remainder to write, or an exception (D14). -/
inductive SDivCorner where
  | values (quotient remainder : Word)
  | raises (e : Exc)
  deriving DecidableEq, Repr, Inhabited

/-- What MemMap says of an address: plain memory, a device, or nothing (R49). -/
inductive MemKind where
  | ram
  | device
  | unmapped
  deriving DecidableEq, Repr

/-- One region of a memory map: `size` word addresses from `base` on. -/
structure MapRegion where
  base : Nat
  size : Nat
  kind : MemKind
  deriving DecidableEq, Repr

/-- What `ERS_SAVES_R13` supplies when it is on: the special register that receives `x[13]` at trap entry, and whether `rfe`
copies it back (D34). -/
structure ErsSave where
  reg : RegId
  restoredByRfe : Bool
  deriving DecidableEq, Repr

/-- FREE VALUE (log 2): the byte a memory cell nothing has written holds, a draw fixed at reset (R27, U9). -/
opaque initialByte : Nat → Byte

/-- FREE VALUE (log 4): what a device answers to the read that is draw number `n` (R42). -/
opaque deviceAnswer (n : Nat) (a : Addr) : Word

/-- FREE VALUE (log 20): what a counting special register that held `v` has counted to at draw number `n` (R242). -/
opaque counterValue (n : Nat) (i : RegId) (v : Word) : Word

/-- FREE VALUE (log 17): whether a deliverable interrupt is taken at the boundary that is draw number `n` (R225, U15). -/
opaque takesInterrupt (n : Nat) : Bool

/-- OPEN PARAMETER (log 18): `sdiv_min_by_minus1`, the outcome of the signed division of -2^31 by -1 (R99 (g), D14). -/
opaque sdivMinByMinus1 : SDivCorner

/-- OPEN PARAMETER (log 14): `UserAccess`, what a user-mode access does with an address (R55, D24). It may depend on the
special registers and on memory, where the family keeps a relocation base and a protection table (GK8). -/
opaque userAccess (sprs : Vector Word 16) (mem : List Host.Cell) (a : Addr) (k : AccessKind) : UserResult

end Sys2Proof.Config
end

