-- ==== Sys2Proof/Machine/Flags.lean ====
section
/-! DEFINITION. The hardware has no flags (R18): what another machine says by a flag, this one says by an exception or by a
result of 1 or 0. Here are the criteria: overflow, division by zero, and the value a test writes. Arithmetic is exact and
narrowed at the end (R99). -/

namespace Sys2Proof.Machine

/-- What an arithmetic instruction comes to: a value for its destination, or an exception (R99). -/
inductive Arith where
  | value (w : Word)
  | raise (e : Config.Exc)
  deriving DecidableEq, Repr

/-- The signed criterion: an exact result outside -2^31 .. 2^31-1 raises Overflow (R99 (b)). -/
def narrowSigned (t : Int) : Arith :=
  if t < -2147483648 ∨ 2147483647 < t then .raise .overflow else .value (BitVec.ofInt 32 t)

/-- The unsigned criterion: an exact result outside 0 .. 2^32-1 raises Overflow (R99 (b), D35). -/
def narrowUnsigned (t : Int) : Arith :=
  if t < 0 ∨ 4294967295 < t then .raise .overflow else .value (BitVec.ofInt 32 t)

/-- The exact unsigned reading of a word. -/
def unsignedInt (w : Word) : Int := (w.toNat : Int)

/-- Signed sum (R100, R101). -/
def addSigned (a b : Word) : Arith := narrowSigned (a.toInt + b.toInt)
/-- Unsigned sum (R102, R103). -/
def addUnsigned (a b : Word) : Arith := narrowUnsigned (unsignedInt a + unsignedInt b)
/-- Signed difference (R104, R105). -/
def subSigned (a b : Word) : Arith := narrowSigned (a.toInt - b.toInt)
/-- Unsigned difference; a negative one is an overflow (R106, R107). -/
def subUnsigned (a b : Word) : Arith := narrowUnsigned (unsignedInt a - unsignedInt b)
/-- Signed product (R108, R109). -/
def mulSigned (a b : Word) : Arith := narrowSigned (a.toInt * b.toInt)
/-- Unsigned product (R110, R111). -/
def mulUnsigned (a b : Word) : Arith := narrowUnsigned (unsignedInt a * unsignedInt b)

/-- The operands of the one signed division whose quotient does not fit: -2^31 by -1 (R99 (g)). -/
def isSDivCorner (a b : Word) : Bool := a == 0x80000000#32 && b == 0xFFFFFFFF#32

/-- Signed quotient, rounded toward zero (R99 (f), R112, R113); the corner is `sdiv_min_by_minus1` (D14). -/
def divSigned (a b : Word) : Arith :=
  if b = 0#32 then .raise .divideByZero
  else if isSDivCorner a b then
    match Config.sdivMinByMinus1 with
    | .values q _ => .value q
    | .raises e => .raise e
  else .value (BitVec.ofInt 32 (a.toInt.tdiv b.toInt))

/-- Signed remainder `a - b*q`, of the dividend's sign (R99 (f), R116, R117); the corner is `sdiv_min_by_minus1` (D14). -/
def remSigned (a b : Word) : Arith :=
  if b = 0#32 then .raise .divideByZero
  else if isSDivCorner a b then
    match Config.sdivMinByMinus1 with
    | .values _ r => .value r
    | .raises e => .raise e
  else .value (BitVec.ofInt 32 (a.toInt - b.toInt * a.toInt.tdiv b.toInt))

/-- Unsigned floor quotient (R99 (e), R114, R115). -/
def divUnsigned (a b : Word) : Arith :=
  if b = 0#32 then .raise .divideByZero else .value (BitVec.ofNat 32 (a.toNat / b.toNat))

/-- Unsigned remainder `a - b*q` (R99 (e), R118, R119). -/
def remUnsigned (a b : Word) : Arith :=
  if b = 0#32 then .raise .divideByZero else .value (BitVec.ofNat 32 (a.toNat - b.toNat * (a.toNat / b.toNat)))

/-- What a test writes: 1 where the relation holds, 0 where it does not (R149 (a)). -/
def testWord (holds : Bool) : Word := if holds then 1#32 else 0#32

/-- Left shift, zeros entering at the bottom (R129 (c)). -/
def shiftLeft (v : Word) (n : Nat) : Word := v <<< n
/-- Logical right shift, zeros entering at the top (R129 (d)). -/
def shiftRightLogical (v : Word) (n : Nat) : Word := v >>> n
/-- Arithmetic right shift, copies of bit 31 entering at the top (R129 (e)). -/
def shiftRightArithmetic (v : Word) (n : Nat) : Word := v.sshiftRight n

end Sys2Proof.Machine
end

