-- ==== Sys2Proof/Machine/Platform.lean ====
section
/-! DEFINITION. The open parameters of the spec that the model instantiates, each by the value 93_implementation_defined.md
Part 2 suggests or by a choice of the model's own; every one has its row in notes/assumptions. The spec's rules name the
parameters, and the rest of the model names these definitions, so another platform changes this file only. -/

namespace Sys2Proof.Machine

/-- `SPR_CTRL`: the special register that holds the control bits, `$cctrl` (R23; PRESUMED GK3, log 7). -/
def sprCtrl : RegId := 4#4
/-- `$estat`, which RecordCause writes (R233; PRESUMED GK4, log 12). -/
def sprEstat : RegId := 5#4
/-- `$icount`, which counts instructions (R242; PRESUMED GK2, log 20). -/
def sprIcount : RegId := 6#4
/-- `$ccount`, which counts clock cycles (R242; PRESUMED GK2, log 20). -/
def sprCcount : RegId := 7#4
/-- `$evec`, whose low 20 bits are HandlerAddress (R232; PRESUMED GK2, GK5, log 11). -/
def sprEvec : RegId := 8#4
/-- `SPR_EAR`: the specifier of `$ear` (R21; PRESUMED GK2, log 6). -/
def sprEar : RegId := 9#4
/-- `$esp` (R24; PRESUMED GK2, log 6): a plain cell. -/
def sprEsp : RegId := 10#4
/-- `$ers` (R24; PRESUMED GK2, log 6): a plain cell while `ERS_SAVES_R13` is off. -/
def sprErs : RegId := 11#4
/-- `$ptable` (R24; PRESUMED GK2, log 6): a plain cell that UserAccess may read. -/
def sprPtable : RegId := 12#4
/-- `$rbase` (R24; PRESUMED GK2, log 6): a plain cell that UserAccess may read. -/
def sprRbase : RegId := 13#4

/-- `SprImplemented` (R20; PRESUMED GK2, log 6): specifiers 4 to 13. -/
def sprImplemented (i : RegId) : Bool := decide (4 ≤ i.toNat) && decide (i.toNat ≤ 13)

/-- The special registers that count by themselves, by draws, between instructions (R242; PRESUMED GK2, log 20). -/
def sprCounts (i : RegId) : Bool := i == sprIcount || i == sprCcount

/-- `BIT_OIE` of CtrlLayout (R23; PRESUMED GK3, log 7). -/
def bitOIE : Nat := 0
/-- `BIT_IE` of CtrlLayout (R23; PRESUMED GK3, log 7). -/
def bitIE : Nat := 1
/-- `BIT_OKU` of CtrlLayout (R23; PRESUMED GK3, log 7). -/
def bitOKU : Nat := 2
/-- `BIT_KU` of CtrlLayout (R23; PRESUMED GK3, log 7). -/
def bitKU : Nat := 3
/-- The value of a mode bit that means kernel (R23; PRESUMED GK3, log 7). -/
def kernelBit : Bool := true
/-- The lowest of the eight interrupt mask bits of `$cctrl` (R220; PRESUMED GK3, log 16). -/
def irqMaskLow : Nat := 4
/-- The lowest of the eight interrupt line bits of `$estat` (R220, R233; PRESUMED GK4, log 12). -/
def estatIrqLow : Nat := 4

/-- RecordCause: the word a cause puts into `$estat` (R233; PRESUMED GK4, GK6, GK7, log 12): lines at bits 11:4, general
protection fault bit 12, system call bit 13, breakpoint bit 14, arithmetic exception bit 15. -/
def causeWord : Config.Cause → Word
  | .interrupt lines => lines.zeroExtend 32 <<< estatIrqLow
  | .exception .illegalInstruction => 0x00001000#32
  | .exception .privilegeViolation => 0x00001000#32
  | .exception .accessViolation => 0x00001000#32
  | .exception .systemCall => 0x00002000#32
  | .exception .breakpoint => 0x00004000#32
  | .exception .overflow => 0x00008000#32
  | .exception .divideByZero => 0x00008000#32

/-- `ERS_SAVES_R13` (R230, D34): off, the spec's default (log 13). -/
def ersSavesR13 : Option Config.ErsSave := none

/-- `RESET_PC` (R251; DESIGN CHOICE, log 10): where the programs of 95_test_vectors.md start. -/
def resetPc : Addr := 0x00000#20

/-- `$cctrl` after reset: `KU = KERNEL`, `IE = 0` (R27); the saved bits and the mask 0 (PRESUMED, log 9). -/
def resetControl : Word := 0x00000008#32

/-- MemMap at reset (R49; DESIGN CHOICE, log 3): all 2^20 addresses are plain memory. -/
def resetMemMap : List Config.MapRegion := [⟨0, 1048576, .ram⟩]

end Sys2Proof.Machine
end

