-- ==== Sys2Proof/Machine/State.lean ====
section
/-! DEFINITION. The machine's state as plain data, the reasons a step can stop, and the state after reset. -/

namespace Sys2Proof.Machine

/-- Memory as the host's cells: the word at address `a` is the four bytes at keys `4 * a` to `4 * a + 3`, its most significant
byte first (nothing observes this order, R45; log 1). Only written cells are listed, by strictly rising key; an unlisted cell
holds no value of its own (log 2). -/
abbrev Memory := List Host.Cell

/-- One access to a device address (R42, R43). -/
inductive DeviceAccess where
  | read (a : Addr)
  | write (a : Addr) (v : Word)
  deriving DecidableEq, Repr

/-- The two privilege modes (R22, R240). -/
inductive Mode where
  | kernel
  | user
  deriving DecidableEq, Repr

/-- The state of the machine. -/
structure State where
  /-- The general registers `x[0]` to `x[15]` (R10); cell 0 is never read nor written, `x[0]` reads zero (R11). -/
  regs : Vector Word 16
  /-- The program counter (R15). -/
  pc : Addr
  /-- The special registers `s[0]` to `s[15]` (R19); only the implemented ones are read or written (R20). The control bits
  IE, KU, OIE and OKU are bits of one of them (R23). -/
  sprs : Vector Word 16
  /-- The memory `M` (R25). -/
  mem : Memory
  /-- The pending interrupt requests, driven by the environment (R26, R220; log 16). -/
  pending : BitVec 8
  /-- The MODEL's own: the parameter MemMap (R49; log 3), which no step changes. -/
  memMap : List Config.MapRegion
  /-- The MODEL's own: the device accesses made, oldest first (R42, R43; log 4). -/
  deviceLog : List DeviceAccess
  /-- The MODEL's own: how many free values have been drawn (log 21). -/
  draws : Nat
  deriving DecidableEq, Repr

/-- Why the machine stops. -/
inductive Fault where
  /-- Raised by a fetch, `lw` or `sw` at an address MemMap says nothing is at: the access is not admitted and the spec gives it
  no step (R42, R43, U8; log 5). Safe: the model stops where the hardware may go on. -/
  | unmapped (a : Addr) (k : Config.AccessKind)
  deriving DecidableEq, Repr

/-- Why an instruction has no meaning. -/
inductive Refusal where
  /-- Raised by an arm of `exec` whose instruction has no meaning yet; no arm is such a one now. Safe. -/
  | notModelled (mnemonic : String)
  /-- Raised by `jalr $ra`, which the spec leaves without a meaning (R183, D15, U4; log 19). Safe. -/
  | linkTargetWithoutMeaning
  /-- Raised by `movgs` and `movsg` in kernel mode on a specifier outside SprImplemented (R20, U6; log 6). Safe. -/
  | specialRegisterNotImplemented (specifier : RegId)
  deriving DecidableEq, Repr

/-- What a meaning answers. -/
abbrev Result := Host.Outcome State Fault Refusal

/-- The machine right after reset (R27, R250): kernel mode, interrupts off, `pc` at RESET_PC; the registers the spec gives no
value hold the values of logs 8 and 9. -/
def State.reset : State where
  regs := Vector.replicate 16 0#32
  pc := resetPc
  sprs := (Vector.replicate 16 0#32).set 4 resetControl
  mem := []
  pending := 0#8
  memMap := resetMemMap
  deviceLog := []
  draws := 0

end Sys2Proof.Machine
end

