-- ==== Sys2Proof/Machine/Memory.lean ====
section
/-! DEFINITION. The cells of memory: reading and writing one cell and one word, the canonical form, and the memory map. -/

namespace Sys2Proof.Machine

/-- The byte listed at a key, if any. -/
def Memory.cell? : Memory → Nat → Option Byte
  | [], _ => none
  | (k, b) :: m, a => if k = a then some b else Memory.cell? m a

/-- What reading the cell at a key gives: the byte written there, or the free value it has held since reset (R27, U9). -/
def Memory.byte (m : Memory) (a : Nat) : Byte :=
  match Memory.cell? m a with
  | some b => b
  | none => Config.initialByte a

/-- Write the byte at a key, keeping the keys strictly rising. -/
def Memory.setByte : Memory → Nat → Byte → Memory
  | [], a, b => [(a, b)]
  | (k, c) :: m, a, b =>
    if a < k then (a, b) :: (k, c) :: m
    else if a = k then (a, b) :: m
    else (k, c) :: Memory.setByte m a b

/-- The key of the first (most significant) byte of the word at an address (log 1). -/
def wordKey (a : Addr) : Nat := 4 * a.toNat

/-- The 32-bit word at an address (R41, R42). -/
def Memory.word (m : Memory) (a : Addr) : Word :=
  Memory.byte m (wordKey a) ++ Memory.byte m (wordKey a + 1) ++ Memory.byte m (wordKey a + 2) ++ Memory.byte m (wordKey a + 3)

/-- Store a 32-bit word at an address; all 32 bits are written (R43). -/
def Memory.setWord (m : Memory) (a : Addr) (v : Word) : Memory :=
  Memory.setByte (Memory.setByte (Memory.setByte (Memory.setByte m
    (wordKey a) (v.extractLsb' 24 8)) (wordKey a + 1) (v.extractLsb' 16 8))
    (wordKey a + 2) (v.extractLsb' 8 8)) (wordKey a + 3) (v.extractLsb' 0 8)

/-- The keys rise strictly. -/
def Memory.rising : Memory → Bool
  | [] => true
  | [_] => true
  | c :: d :: m => decide (c.1 < d.1) && Memory.rising (d :: m)

/-- Every key is one of the 2^20 words' four bytes (R41). -/
def Memory.inSpace (m : Memory) : Bool := m.all fun c => decide (c.1 < 4194304)

/-- The canonical form of memory: strictly rising keys inside the address space (log 2). -/
def Memory.wf (m : Memory) : Bool := Memory.rising m && Memory.inSpace m

/-- What a memory map says of an address: the kind of the first region that holds it; unmapped where none does (R49). -/
def kindAt : List Config.MapRegion → Addr → Config.MemKind
  | [], _ => .unmapped
  | r :: rs, a => if r.base ≤ a.toNat ∧ a.toNat < r.base + r.size then r.kind else kindAt rs a

end Sys2Proof.Machine
end

