-- ==== Sys2Proof/Machine/Operands.lean ====
section
/-! DEFINITION. Every operand form of R68: how an immediate, offset or address field, or a register's low bits, become an
operand. -/

namespace Sys2Proof.Machine

/-- `sext_16`: the sign-extended immediate (R68). -/
def sext16 (imm : Imm16) : Word := imm.signExtend 32

/-- `zext_16`: the zero-extended immediate (R68). -/
def zext16 (imm : Imm16) : Word := imm.setWidth 32

/-- `sext_20`: the sign-extended offset (R68). -/
def sext20 (off : Imm20) : Word := off.signExtend 32

/-- `zext_20`: the zero-extended 20-bit address (R68; D5). -/
def zext20 (a : Addr) : Word := a.setWidth 32

/-- `v[19:0]`: the low 20 bits of a word as an address (R48, R181, R199). -/
def low20 (v : Word) : Addr := v.extractLsb' 0 20

/-- `lhi`'s operand: `Immediate || 0x0000` (R68, R120). -/
def highImmediate (imm : Imm16) : Word := imm ++ 0#16

/-- The shift amount of `sll`, `srl`, `sra`: `x[Rt][4:0]` as an unsigned number (R68, R129 (b)). -/
def shiftAmount (v : Word) : Nat := (v.extractLsb' 0 5).toNat

/-- The shift amount of `slli`, `srli`, `srai`: `Immediate[4:0]`, the other bits ignored (R68, R129 (b)). -/
def shiftAmountImm (imm : Imm16) : Nat := (imm.extractLsb' 0 5).toNat

/-- `pc_next`: the address of the next instruction in sequence, modulo 2^20 (R16, R17). -/
def nextAddr (pc : Addr) : Addr := pc + 1#20

/-- The target of a taken branch: `(pc_next + sext_20(Offset)) mod 2^20` (R17, R179 (d)). -/
def branchTarget (pc : Addr) (off : Imm20) : Addr := low20 (zext20 (nextAddr pc) + sext20 off)

/-- The memory address of `lw` and `sw`: the low 20 bits of `(x[Rs] + sext_20(Offset)) mod 2^32` (R48, R189 (a)). -/
def effectiveAddr (base : Word) (off : Imm20) : Addr := low20 (base + sext20 off)

end Sys2Proof.Machine
end

