-- ==== Sys2Proof/Machine/Ops.lean ====
section
/-! DEFINITION. The named operations over the state that every meaning is made of: registers, control bits, memory accesses,
interrupt sampling, taking an exception and returning from one. -/

namespace Sys2Proof.Machine

/-- Assign the program counter. -/
def State.setPc (s : State) (a : Addr) : State := { s with pc := a }

/-- Assign memory as a whole. -/
def State.setMem (s : State) (m : Memory) : State := { s with mem := m }

/-- `pc <- pc_next`: fall through (R17). -/
def State.advance (s : State) : State := s.setPc (nextAddr s.pc)

/-- `x[i]`: register 0 reads zero (R11). -/
def State.readReg (s : State) (r : RegId) : Word :=
  if r = 0#4 then 0#32 else s.regs[r.toNat]'r.isLt

/-- `x[i] <- v`: a write to register 0 is discarded (R11). -/
def State.writeReg (s : State) (r : RegId) (v : Word) : State :=
  { s with regs := if r = 0#4 then s.regs else s.regs.set r.toNat v r.isLt }

/-- `s[i]`: the special register's cell (R20). -/
def State.readSpr (s : State) (i : RegId) : Word := s.sprs[i.toNat]'i.isLt

/-- `s[i] <- v` (R20). -/
def State.writeSpr (s : State) (i : RegId) (v : Word) : State := { s with sprs := s.sprs.set i.toNat v i.isLt }

/-- One free value has been drawn (log 21). -/
def State.drawn (s : State) : State := { s with draws := s.draws + 1 }

/-- A device access has been made (R42, R43; log 4). -/
def State.logDevice (s : State) (e : DeviceAccess) : State := { s with deviceLog := s.deviceLog ++ [e] }

/-- Set one bit of a word to a value. -/
def setBit (w : Word) (n : Nat) (b : Bool) : Word :=
  if b then w ||| BitVec.twoPow 32 n else w &&& ~~~(BitVec.twoPow 32 n)

/-- The mode a mode bit means (R23). -/
def modeOf (b : Bool) : Mode := if b = kernelBit then .kernel else .user

/-- The mode bit that means a mode (R23). -/
def bitOf : Mode → Bool
  | .kernel => kernelBit
  | .user => !kernelBit

/-- `IE` (R22, R23). -/
def State.ie (s : State) : Bool := (s.readSpr sprCtrl).getLsbD bitIE
/-- `KU` (R22, R23). -/
def State.ku (s : State) : Mode := modeOf ((s.readSpr sprCtrl).getLsbD bitKU)
/-- `OIE` (R22, R23). -/
def State.oie (s : State) : Bool := (s.readSpr sprCtrl).getLsbD bitOIE
/-- `OKU` (R22, R23). -/
def State.oku (s : State) : Mode := modeOf ((s.readSpr sprCtrl).getLsbD bitOKU)

/-- Assign the four control bits; the register's other bits keep their values (R22, R23). -/
def State.setControl (s : State) (ie : Bool) (ku : Mode) (oie : Bool) (oku : Mode) : State :=
  s.writeSpr sprCtrl (setBit (setBit (setBit (setBit (s.readSpr sprCtrl) bitIE ie) bitKU (bitOf ku)) bitOIE oie) bitOKU (bitOf oku))

/-- The per-line interrupt mask (R220; PRESUMED GK3, log 16). -/
def State.irqMask (s : State) : BitVec 8 := (s.readSpr sprCtrl).extractLsb' irqMaskLow 8

/-- The deliverable interrupt requests: pending, not masked, and `IE = 1` (R220). -/
def State.deliverable (s : State) : BitVec 8 := if s.ie then s.pending &&& s.irqMask else 0#8

/-- `HandlerAddress`, read at the moment of trap entry (R232; PRESUMED: the low 20 bits of `$evec`, log 11). -/
def State.handlerAddress (s : State) : Addr := low20 (s.readSpr sprEvec)

/-- `RecordCause(E)` (R233; PRESUMED: `$estat` is written, log 12). -/
def State.recordCause (s : State) (c : Config.Cause) : State := s.writeSpr sprEstat (causeWord c)

/-- The save of `x[13]` at trap entry where `ERS_SAVES_R13` is on (R230, D34). -/
def State.saveR13 (s : State) : Option Config.ErsSave → State
  | none => s
  | some p => s.writeSpr p.reg (s.readReg 13#4)

/-- The copy back to `x[13]` at `rfe` where `ERS_SAVES_R13` asks for it (R199, D34). -/
def State.restoreR13 (s : State) : Option Config.ErsSave → State
  | none => s
  | some p => if p.restoredByRfe then s.writeReg 13#4 (s.readSpr p.reg) else s

/-- TAKING AN EXCEPTION: trap entry for a cause with a return address, one indivisible step (R230). -/
def State.trapEntry (s : State) (c : Config.Cause) (ret : Addr) : State :=
  let s1 := s.setControl false .kernel s.ie s.ku
  let s2 := s1.writeSpr sprEar (zext20 ret)
  let s3 := (s2.recordCause c).saveR13 ersSavesR13
  s3.setPc s3.handlerAddress

/-- `raise E()`: the instruction at `pc` is abandoned and trap entry performed with return address `pc_next` (R231). -/
def State.raise (s : State) (e : Config.Exc) : State := s.trapEntry (.exception e) (nextAddr s.pc)

/-- RETURNING FROM AN EXCEPTION: `IE <- OIE`, `KU <- OKU`, `pc <- ear[19:0]` (R199, R235). -/
def State.returnFromTrap (s : State) : State :=
  let s1 := (s.setControl s.oie s.oku s.oie s.oku).restoreR13 ersSavesR13
  s1.setPc (low20 (s.readSpr sprEar))

/-- Write an arithmetic result and fall through, or take the exception instead of the write (R99; D12). -/
def State.finish (s : State) (rd : RegId) : Arith → Result
  | .value w => .next (s.writeReg rd w).advance
  | .raise e => .next (s.raise e)

/-- Write a result and fall through: the instructions that raise nothing. -/
def State.writeNext (s : State) (rd : RegId) (v : Word) : Result := .next (s.writeReg rd v).advance

/-- What a memory access comes to. -/
inductive Access (α : Type) where
  /-- It was made. -/
  | done (v : α) (s : State)
  /-- UserAccess gave a fault (R55). -/
  | violation
  /-- Nothing is at the address: the access is not admitted (R42, R43). -/
  | absent (a : Addr)

/-- The address an access uses: as it is in kernel mode, what UserAccess gives in user mode (R55). -/
def State.translate (s : State) (a : Addr) (k : Config.AccessKind) : Config.UserResult :=
  match s.ku with
  | .kernel => .physical a
  | .user => Config.userAccess s.sprs s.mem a k

/-- `MemRead(addr, 32)` (R42): the memory word; of a device, its answer (a draw), the read being made; of nothing, no access. -/
def State.memRead (s : State) (a : Addr) : Access Word :=
  match kindAt s.memMap a with
  | .ram => .done (Memory.word s.mem a) s
  | .device => .done (Config.deviceAnswer s.draws a) (s.logDevice (.read a)).drawn
  | .unmapped => .absent a

/-- `MemWrite(addr, 32, v)` (R43): the memory word is set; a device is handed the write; of nothing, no access. -/
def State.memWrite (s : State) (a : Addr) (v : Word) : Access Unit :=
  match kindAt s.memMap a with
  | .ram => .done () (s.setMem (Memory.setWord s.mem a v))
  | .device => .done () (s.logDevice (.write a v))
  | .unmapped => .absent a

/-- Read a word through UserAccess where the mode is user (R55). -/
def State.load (s : State) (a : Addr) (k : Config.AccessKind) : Access Word :=
  match s.translate a k with
  | .physical p => s.memRead p
  | .violation => .violation

/-- Write a word through UserAccess where the mode is user (R55). -/
def State.store (s : State) (a : Addr) (v : Word) : Access Unit :=
  match s.translate a .store with
  | .physical p => s.memWrite p v
  | .violation => .violation

/-- `Fetch(pc)` (R44). -/
def State.fetch (s : State) : Access Word := s.load s.pc .fetch

/-- The privilege check: in user mode the instruction raises PrivilegeViolation and does nothing else (R216, R241). -/
def State.privileged (s : State) (inKernel : Result) : Result :=
  match s.ku with
  | .kernel => inKernel
  | .user => .next (s.raise .privilegeViolation)

end Sys2Proof.Machine
end

