-- ==== Sys2Proof/Machine/Arithmetic.lean ====
section
/-! DEFINITION. The 22 arithmetic instructions (40_arithmetic.md, R99 to R121). -/

namespace Sys2Proof.Machine

/-- `add Rd, Rs, Rt` (R100): the signed sum with a register; Overflow where it does not fit. -/
def execAdd (rd rs rt : RegId) (s : State) : Result :=
  s.finish rd (addSigned (s.readReg rs) (s.readReg rt))

/-- `addi Rd, Rs, Immediate` (R101): the signed sum with a sign-extended immediate; Overflow where it does not fit. -/
def execAddi (rd rs : RegId) (imm : Imm16) (s : State) : Result :=
  s.finish rd (addSigned (s.readReg rs) (sext16 imm))

/-- `addu Rd, Rs, Rt` (R102): the unsigned sum with a register; Overflow where it does not fit. -/
def execAddu (rd rs rt : RegId) (s : State) : Result :=
  s.finish rd (addUnsigned (s.readReg rs) (s.readReg rt))

/-- `addui Rd, Rs, Immediate` (R103): the unsigned sum with a zero-extended immediate; Overflow where it does not fit. -/
def execAddui (rd rs : RegId) (imm : Imm16) (s : State) : Result :=
  s.finish rd (addUnsigned (s.readReg rs) (zext16 imm))

/-- `sub Rd, Rs, Rt` (R104): the signed difference with a register; Overflow where it does not fit. -/
def execSub (rd rs rt : RegId) (s : State) : Result :=
  s.finish rd (subSigned (s.readReg rs) (s.readReg rt))

/-- `subi Rd, Rs, Immediate` (R105): the signed difference with a sign-extended immediate; Overflow where it does not fit. -/
def execSubi (rd rs : RegId) (imm : Imm16) (s : State) : Result :=
  s.finish rd (subSigned (s.readReg rs) (sext16 imm))

/-- `subu Rd, Rs, Rt` (R106): the unsigned difference with a register; Overflow where it does not fit. -/
def execSubu (rd rs rt : RegId) (s : State) : Result :=
  s.finish rd (subUnsigned (s.readReg rs) (s.readReg rt))

/-- `subui Rd, Rs, Immediate` (R107): the unsigned difference with a zero-extended immediate; Overflow where it does not fit. -/
def execSubui (rd rs : RegId) (imm : Imm16) (s : State) : Result :=
  s.finish rd (subUnsigned (s.readReg rs) (zext16 imm))

/-- `mult Rd, Rs, Rt` (R108): the signed product with a register; Overflow where it does not fit. -/
def execMult (rd rs rt : RegId) (s : State) : Result :=
  s.finish rd (mulSigned (s.readReg rs) (s.readReg rt))

/-- `multi Rd, Rs, Immediate` (R109): the signed product with a sign-extended immediate; Overflow where it does not fit. -/
def execMulti (rd rs : RegId) (imm : Imm16) (s : State) : Result :=
  s.finish rd (mulSigned (s.readReg rs) (sext16 imm))

/-- `multu Rd, Rs, Rt` (R110): the unsigned product with a register; Overflow where it does not fit. -/
def execMultu (rd rs rt : RegId) (s : State) : Result :=
  s.finish rd (mulUnsigned (s.readReg rs) (s.readReg rt))

/-- `multui Rd, Rs, Immediate` (R111): the unsigned product with a zero-extended immediate; Overflow where it does not fit. -/
def execMultui (rd rs : RegId) (imm : Imm16) (s : State) : Result :=
  s.finish rd (mulUnsigned (s.readReg rs) (zext16 imm))

/-- `div Rd, Rs, Rt` (R112): the signed quotient with a register; DivideByZero where the divisor is zero. -/
def execDiv (rd rs rt : RegId) (s : State) : Result :=
  s.finish rd (divSigned (s.readReg rs) (s.readReg rt))

/-- `divi Rd, Rs, Immediate` (R113): the signed quotient with a sign-extended immediate; DivideByZero where the divisor is zero. -/
def execDivi (rd rs : RegId) (imm : Imm16) (s : State) : Result :=
  s.finish rd (divSigned (s.readReg rs) (sext16 imm))

/-- `divu Rd, Rs, Rt` (R114): the unsigned quotient with a register; DivideByZero where the divisor is zero. -/
def execDivu (rd rs rt : RegId) (s : State) : Result :=
  s.finish rd (divUnsigned (s.readReg rs) (s.readReg rt))

/-- `divui Rd, Rs, Immediate` (R115): the unsigned quotient with a zero-extended immediate; DivideByZero where the divisor is zero. -/
def execDivui (rd rs : RegId) (imm : Imm16) (s : State) : Result :=
  s.finish rd (divUnsigned (s.readReg rs) (zext16 imm))

/-- `rem Rd, Rs, Rt` (R116): the signed remainder with a register; DivideByZero where the divisor is zero. -/
def execRem (rd rs rt : RegId) (s : State) : Result :=
  s.finish rd (remSigned (s.readReg rs) (s.readReg rt))

/-- `remi Rd, Rs, Immediate` (R117): the signed remainder with a sign-extended immediate; DivideByZero where the divisor is zero. -/
def execRemi (rd rs : RegId) (imm : Imm16) (s : State) : Result :=
  s.finish rd (remSigned (s.readReg rs) (sext16 imm))

/-- `remu Rd, Rs, Rt` (R118): the unsigned remainder with a register; DivideByZero where the divisor is zero. -/
def execRemu (rd rs rt : RegId) (s : State) : Result :=
  s.finish rd (remUnsigned (s.readReg rs) (s.readReg rt))

/-- `remui Rd, Rs, Immediate` (R119): the unsigned remainder with a zero-extended immediate; DivideByZero where the divisor is zero. -/
def execRemui (rd rs : RegId) (imm : Imm16) (s : State) : Result :=
  s.finish rd (remUnsigned (s.readReg rs) (zext16 imm))

/-- `lhi Rd, Immediate` (R120): the immediate in the upper half, the lower half zero. -/
def execLhi (rd : RegId) (imm : Imm16) (s : State) : Result :=
  s.writeNext rd (highImmediate imm)

/-- `la Rd, Address` (R121): the zero-extended 20-bit address; memory is not read. -/
def execLa (rd : RegId) (addr : Imm20) (s : State) : Result :=
  s.writeNext rd (zext20 addr)

end Sys2Proof.Machine
end

