-- ==== Sys2Proof/Machine/Bitwise.lean ====
section
/-! DEFINITION. The 12 bitwise instructions (41_bitwise.md, R129 to R141). -/

namespace Sys2Proof.Machine

/-- `and Rd, Rs, Rt` (R130): bitwise AND of two registers. -/
def execAnd (rd rs rt : RegId) (s : State) : Result :=
  s.writeNext rd (s.readReg rs &&& s.readReg rt)

/-- `andi Rd, Rs, Immediate` (R131): bitwise AND with the zero-extended immediate. -/
def execAndi (rd rs : RegId) (imm : Imm16) (s : State) : Result :=
  s.writeNext rd (s.readReg rs &&& zext16 imm)

/-- `or Rd, Rs, Rt` (R132): bitwise OR of two registers. -/
def execOr (rd rs rt : RegId) (s : State) : Result :=
  s.writeNext rd (s.readReg rs ||| s.readReg rt)

/-- `ori Rd, Rs, Immediate` (R133): bitwise OR with the zero-extended immediate. -/
def execOri (rd rs : RegId) (imm : Imm16) (s : State) : Result :=
  s.writeNext rd (s.readReg rs ||| zext16 imm)

/-- `xor Rd, Rs, Rt` (R134): bitwise exclusive-OR of two registers. -/
def execXor (rd rs rt : RegId) (s : State) : Result :=
  s.writeNext rd (s.readReg rs ^^^ s.readReg rt)

/-- `xori Rd, Rs, Immediate` (R135): bitwise exclusive-OR with the zero-extended immediate. -/
def execXori (rd rs : RegId) (imm : Imm16) (s : State) : Result :=
  s.writeNext rd (s.readReg rs ^^^ zext16 imm)

/-- `sll Rd, Rs, Rt` (R136): left shift by the low 5 bits of a register. -/
def execSll (rd rs rt : RegId) (s : State) : Result :=
  s.writeNext rd (shiftLeft (s.readReg rs) (shiftAmount (s.readReg rt)))

/-- `slli Rd, Rs, Immediate` (R137): left shift by the low 5 bits of the immediate. -/
def execSlli (rd rs : RegId) (imm : Imm16) (s : State) : Result :=
  s.writeNext rd (shiftLeft (s.readReg rs) (shiftAmountImm imm))

/-- `srl Rd, Rs, Rt` (R138): logical right shift by the low 5 bits of a register. -/
def execSrl (rd rs rt : RegId) (s : State) : Result :=
  s.writeNext rd (shiftRightLogical (s.readReg rs) (shiftAmount (s.readReg rt)))

/-- `srli Rd, Rs, Immediate` (R139): logical right shift by the low 5 bits of the immediate. -/
def execSrli (rd rs : RegId) (imm : Imm16) (s : State) : Result :=
  s.writeNext rd (shiftRightLogical (s.readReg rs) (shiftAmountImm imm))

/-- `sra Rd, Rs, Rt` (R140): arithmetic right shift by the low 5 bits of a register. -/
def execSra (rd rs rt : RegId) (s : State) : Result :=
  s.writeNext rd (shiftRightArithmetic (s.readReg rs) (shiftAmount (s.readReg rt)))

/-- `srai Rd, Rs, Immediate` (R141): arithmetic right shift by the low 5 bits of the immediate. -/
def execSrai (rd rs : RegId) (imm : Imm16) (s : State) : Result :=
  s.writeNext rd (shiftRightArithmetic (s.readReg rs) (shiftAmountImm imm))

end Sys2Proof.Machine
end

