-- ==== Sys2Proof/Machine/Branch.lean ====
section
/-! DEFINITION. The 6 branch instructions (43_branch.md, R179 to R185). -/

namespace Sys2Proof.Machine

/-- `j Address` (R180): jump to an absolute address. -/
def execJ (addr : Imm20) (s : State) : Result :=
  .next (s.setPc addr)

/-- `jr Rs` (R181): jump to the low 20 bits of a register. -/
def execJr (rs : RegId) (s : State) : Result :=
  .next (s.setPc (low20 (s.readReg rs)))

/-- `jal Address` (R182): save the address of the next instruction in `$ra` and jump. -/
def execJal (addr : Imm20) (s : State) : Result :=
  .next ((s.writeReg 15#4 (zext20 (nextAddr s.pc))).setPc addr)

/-- `jalr Rs` (R183): save the address of the next instruction in `$ra` and jump to the low 20 bits of a
register; `jalr $ra` has no meaning (D15; log 19). -/
def execJalr (rs : RegId) (s : State) : Result :=
  if rs = 15#4 then .refused .linkTargetWithoutMeaning
  else .next ((s.writeReg 15#4 (zext20 (nextAddr s.pc))).setPc (low20 (s.readReg rs)))

/-- `beqz Rs, Offset` (R184): branch if the register is zero. -/
def execBeqz (rs : RegId) (off : Imm20) (s : State) : Result :=
  .next (s.setPc (if s.readReg rs = 0#32 then branchTarget s.pc off else nextAddr s.pc))

/-- `bnez Rs, Offset` (R185): branch if the register is not zero. -/
def execBnez (rs : RegId) (off : Imm20) (s : State) : Result :=
  .next (s.setPc (if s.readReg rs ≠ 0#32 then branchTarget s.pc off else nextAddr s.pc))

end Sys2Proof.Machine
end

