-- ==== Sys2Proof/Machine/LoadStore.lean ====
section
/-! DEFINITION. The 2 memory instructions (44_memory_instructions.md, R189 to R191). -/

namespace Sys2Proof.Machine

/-- `lw Rd, Offset(Rs)` (R190): load the word at the effective address; a user-mode access that UserAccess faults takes
the access violation (log 15). -/
def execLw (rd rs : RegId) (off : Imm20) (s : State) : Result :=
  match s.load (effectiveAddr (s.readReg rs) off) .load with
  | .done v s1 => s1.writeNext rd v
  | .violation => .next (s.raise .accessViolation)
  | .absent a => .fault (.unmapped a .load)

/-- `sw Rd, Offset(Rs)` (R191): store a register at the effective address; a user-mode access that UserAccess faults
takes the access violation (log 15). -/
def execSw (rd rs : RegId) (off : Imm20) (s : State) : Result :=
  match s.store (effectiveAddr (s.readReg rs) off) (s.readReg rd) with
  | .done _ s1 => .next s1.advance
  | .violation => .next (s.raise .accessViolation)
  | .absent a => .fault (.unmapped a .store)

end Sys2Proof.Machine
end

