-- ==== Sys2Proof/Machine/Special.lean ====
section
/-! DEFINITION. The 5 special instructions (45_special.md, R194 to R199). -/

namespace Sys2Proof.Machine

/-- `movgs Rd, Rs` (R195): copy a general register to a special register; privileged; a specifier outside SprImplemented
has no meaning (log 6). -/
def execMovgs (rd rs : RegId) (s : State) : Result :=
  s.privileged
    (if sprImplemented rd then .next (s.writeSpr rd (s.readReg rs)).advance
     else .refused (.specialRegisterNotImplemented rd))

/-- `movsg Rd, Rs` (R196): copy a special register to a general register; privileged; a specifier outside SprImplemented
has no meaning (log 6). -/
def execMovsg (rd rs : RegId) (s : State) : Result :=
  s.privileged
    (if sprImplemented rs then s.writeNext rd (s.readSpr rs)
     else .refused (.specialRegisterNotImplemented rs))

/-- `break` (R197): raise Breakpoint, in both modes. -/
def execBrk (s : State) : Result :=
  .next (s.raise .breakpoint)

/-- `syscall` (R198): raise SystemCall, in both modes. -/
def execSyscall (s : State) : Result :=
  .next (s.raise .systemCall)

/-- `rfe` (R199): return from exception; privileged. -/
def execRfe (s : State) : Result :=
  s.privileged (.next s.returnFromTrap)

end Sys2Proof.Machine
end

