-- ==== Sys2Proof/Machine/Test.lean ====
section
/-! DEFINITION. The 24 test instructions (42_test.md, R149 to R173). -/

namespace Sys2Proof.Machine

/-- `slt Rd, Rs, Rt` (R150): 1 if less than the second operand, signed, else 0. -/
def execSlt (rd rs rt : RegId) (s : State) : Result :=
  s.writeNext rd (testWord (decide ((s.readReg rs).toInt < (s.readReg rt).toInt)))

/-- `slti Rd, Rs, Immediate` (R151): 1 if less than the second operand, signed, else 0. -/
def execSlti (rd rs : RegId) (imm : Imm16) (s : State) : Result :=
  s.writeNext rd (testWord (decide ((s.readReg rs).toInt < (sext16 imm).toInt)))

/-- `sltu Rd, Rs, Rt` (R152): 1 if less than the second operand, unsigned, else 0. -/
def execSltu (rd rs rt : RegId) (s : State) : Result :=
  s.writeNext rd (testWord (decide (unsignedInt (s.readReg rs) < unsignedInt (s.readReg rt))))

/-- `sltui Rd, Rs, Immediate` (R153): 1 if less than the second operand, unsigned, else 0. -/
def execSltui (rd rs : RegId) (imm : Imm16) (s : State) : Result :=
  s.writeNext rd (testWord (decide (unsignedInt (s.readReg rs) < unsignedInt (zext16 imm))))

/-- `sgt Rd, Rs, Rt` (R154): 1 if greater than the second operand, signed, else 0. -/
def execSgt (rd rs rt : RegId) (s : State) : Result :=
  s.writeNext rd (testWord (decide ((s.readReg rs).toInt > (s.readReg rt).toInt)))

/-- `sgti Rd, Rs, Immediate` (R155): 1 if greater than the second operand, signed, else 0. -/
def execSgti (rd rs : RegId) (imm : Imm16) (s : State) : Result :=
  s.writeNext rd (testWord (decide ((s.readReg rs).toInt > (sext16 imm).toInt)))

/-- `sgtu Rd, Rs, Rt` (R156): 1 if greater than the second operand, unsigned, else 0. -/
def execSgtu (rd rs rt : RegId) (s : State) : Result :=
  s.writeNext rd (testWord (decide (unsignedInt (s.readReg rs) > unsignedInt (s.readReg rt))))

/-- `sgtui Rd, Rs, Immediate` (R157): 1 if greater than the second operand, unsigned, else 0. -/
def execSgtui (rd rs : RegId) (imm : Imm16) (s : State) : Result :=
  s.writeNext rd (testWord (decide (unsignedInt (s.readReg rs) > unsignedInt (zext16 imm))))

/-- `sle Rd, Rs, Rt` (R158): 1 if at most the second operand, signed, else 0. -/
def execSle (rd rs rt : RegId) (s : State) : Result :=
  s.writeNext rd (testWord (decide ((s.readReg rs).toInt ≤ (s.readReg rt).toInt)))

/-- `slei Rd, Rs, Immediate` (R159): 1 if at most the second operand, signed, else 0. -/
def execSlei (rd rs : RegId) (imm : Imm16) (s : State) : Result :=
  s.writeNext rd (testWord (decide ((s.readReg rs).toInt ≤ (sext16 imm).toInt)))

/-- `sleu Rd, Rs, Rt` (R160): 1 if at most the second operand, unsigned, else 0. -/
def execSleu (rd rs rt : RegId) (s : State) : Result :=
  s.writeNext rd (testWord (decide (unsignedInt (s.readReg rs) ≤ unsignedInt (s.readReg rt))))

/-- `sleui Rd, Rs, Immediate` (R161): 1 if at most the second operand, unsigned, else 0. -/
def execSleui (rd rs : RegId) (imm : Imm16) (s : State) : Result :=
  s.writeNext rd (testWord (decide (unsignedInt (s.readReg rs) ≤ unsignedInt (zext16 imm))))

/-- `sge Rd, Rs, Rt` (R162): 1 if at least the second operand, signed, else 0. -/
def execSge (rd rs rt : RegId) (s : State) : Result :=
  s.writeNext rd (testWord (decide ((s.readReg rs).toInt ≥ (s.readReg rt).toInt)))

/-- `sgei Rd, Rs, Immediate` (R163): 1 if at least the second operand, signed, else 0. -/
def execSgei (rd rs : RegId) (imm : Imm16) (s : State) : Result :=
  s.writeNext rd (testWord (decide ((s.readReg rs).toInt ≥ (sext16 imm).toInt)))

/-- `sgeu Rd, Rs, Rt` (R164): 1 if at least the second operand, unsigned, else 0. -/
def execSgeu (rd rs rt : RegId) (s : State) : Result :=
  s.writeNext rd (testWord (decide (unsignedInt (s.readReg rs) ≥ unsignedInt (s.readReg rt))))

/-- `sgeui Rd, Rs, Immediate` (R165): 1 if at least the second operand, unsigned, else 0. -/
def execSgeui (rd rs : RegId) (imm : Imm16) (s : State) : Result :=
  s.writeNext rd (testWord (decide (unsignedInt (s.readReg rs) ≥ unsignedInt (zext16 imm))))

/-- `seq Rd, Rs, Rt` (R166): 1 if equal to the second operand, signed, else 0. -/
def execSeq (rd rs rt : RegId) (s : State) : Result :=
  s.writeNext rd (testWord (decide ((s.readReg rs).toInt = (s.readReg rt).toInt)))

/-- `seqi Rd, Rs, Immediate` (R167): 1 if equal to the second operand, signed, else 0. -/
def execSeqi (rd rs : RegId) (imm : Imm16) (s : State) : Result :=
  s.writeNext rd (testWord (decide ((s.readReg rs).toInt = (sext16 imm).toInt)))

/-- `sequ Rd, Rs, Rt` (R168): 1 if equal to the second operand, unsigned, else 0. -/
def execSequ (rd rs rt : RegId) (s : State) : Result :=
  s.writeNext rd (testWord (decide (unsignedInt (s.readReg rs) = unsignedInt (s.readReg rt))))

/-- `sequi Rd, Rs, Immediate` (R169): 1 if equal to the second operand, unsigned, else 0. -/
def execSequi (rd rs : RegId) (imm : Imm16) (s : State) : Result :=
  s.writeNext rd (testWord (decide (unsignedInt (s.readReg rs) = unsignedInt (zext16 imm))))

/-- `sne Rd, Rs, Rt` (R170): 1 if not equal to the second operand, signed, else 0. -/
def execSne (rd rs rt : RegId) (s : State) : Result :=
  s.writeNext rd (testWord (decide ((s.readReg rs).toInt ≠ (s.readReg rt).toInt)))

/-- `snei Rd, Rs, Immediate` (R171): 1 if not equal to the second operand, signed, else 0. -/
def execSnei (rd rs : RegId) (imm : Imm16) (s : State) : Result :=
  s.writeNext rd (testWord (decide ((s.readReg rs).toInt ≠ (sext16 imm).toInt)))

/-- `sneu Rd, Rs, Rt` (R172): 1 if not equal to the second operand, unsigned, else 0. -/
def execSneu (rd rs rt : RegId) (s : State) : Result :=
  s.writeNext rd (testWord (decide (unsignedInt (s.readReg rs) ≠ unsignedInt (s.readReg rt))))

/-- `sneui Rd, Rs, Immediate` (R173): 1 if not equal to the second operand, unsigned, else 0. -/
def execSneui (rd rs : RegId) (imm : Imm16) (s : State) : Result :=
  s.writeNext rd (testWord (decide (unsignedInt (s.readReg rs) ≠ unsignedInt (zext16 imm))))

end Sys2Proof.Machine
end

