-- ==== Sys2Proof/Machine/Sequence.lean ====
section
/-! DEFINITION. What a step does around an instruction: sampling interrupts, the counting of the special registers that count
by themselves, a fetch that UserAccess faults, and placing a word where the next fetch reads. -/

namespace Sys2Proof.Machine

/-- What interrupt sampling comes to. -/
inductive Sample where
  /-- An interrupt is taken; the step is over. -/
  | taken (s : State)
  /-- None is taken; the step goes on with the instruction. -/
  | notTaken (s : State)

/-- Interrupt sampling before the fetch (R225): where a request is deliverable, a free choice says whether it is taken now
(log 17), by trap entry with the deliverable lines and return address `pc` (R231). -/
def State.sampleInterrupt (s : State) : Sample :=
  if s.deliverable = 0#8 then .notTaken s
  else if Config.takesInterrupt s.draws then .taken (s.drawn.trapEntry (.interrupt s.deliverable) s.pc)
  else .notTaken s.drawn

/-- The counting special register an instruction reads, if any: `movsg` is the only instruction that can show a count. -/
def counterRead : Instr → Option RegId
  | .movsg _ rs => if sprCounts rs then some rs else none
  | _ => none

/-- What a counting special register has counted since it was last looked at, a draw, written to its cell: the parameterised
effect of R20 that R242 leaves to a model which implements the register (log 20). -/
def State.counted (s : State) (i : RegId) : State :=
  (s.writeSpr i (Config.counterValue s.draws i (s.readSpr i))).drawn

/-- The counting made up for before an instruction runs: of the counter it is about to read, in kernel mode, which alone lets
it read one (R241). -/
def State.countedFor (s : State) (i : Instr) : State :=
  match counterRead i with
  | none => s
  | some r =>
    match s.ku with
    | .kernel => s.counted r
    | .user => s

/-- A user-mode fetch that UserAccess faults (R55, R226 (2)): the program counter has not been advanced, so the return address
is `pc` (DEDUCED from R231, log 15). -/
def State.fetchViolation (s : State) : State := s.trapEntry (.exception .accessViolation) s.pc

/-- A word stored where the fetch at `pc` reads it. -/
def State.placeWord (s : State) (w : Word) : State :=
  match s.translate s.pc .fetch with
  | .physical p => s.setMem (Memory.setWord s.mem p w)
  | .violation => s

end Sys2Proof.Machine
end

