-- ==== Sys2Proof/Machine/Step.lean ====
section
/-! DEFINITION. One step of the CPU (R257), and the state whose next step runs a given instruction. -/

namespace Sys2Proof.Machine

/-- Fetch, decode and execute one instruction (R226 (2) to (5), R257); a counter the instruction is about to read counts before
it runs (R242; log 20). -/
def instructionStep (s : State) : Host.Outcome State Fault Refusal :=
  match s.fetch with
  | .done w s1 =>
    match decode w with
    | .ok i => exec i (s1.countedFor i)
    | .error _ => .next (s1.raise .illegalInstruction)
  | .violation => .next s.fetchViolation
  | .absent a => .fault (.unmapped a .fetch)

/-- One step: an interrupt taken before the instruction, or the instruction (R225, R226, R257). -/
def step (s : State) : Host.Outcome State Fault Refusal :=
  match s.sampleInterrupt with
  | .taken s1 => .next s1
  | .notTaken s1 => instructionStep s1

/-- `s` with the instruction of `nbits` bits given as the number `w` stored where the next step fetches: at the address the
fetch at `pc` uses. -/
def State.withFetchWord (s : State) (nbits w : Nat) : State := s.placeWord (BitVec.ofNat 32 (w % 2 ^ nbits))

end Sys2Proof.Machine
end

