-- ==== Sys2Proof/WellFormed.lean ====
section
/-! DEFINITION. Well-formed instructions. The operand widths are in the types of `Instr`, so no term has an operand that its
field cannot hold; what is left to check are the operands to which the spec gives no meaning. -/

namespace Sys2Proof

/-- The instruction's operands have a meaning: `jalr` does not name `$ra` (R183), and `movgs` and `movsg` name an implemented
special register (R20). -/
def Instr.wellFormed : Instr → Bool
  | .jalr rs => rs != 15#4
  | .movgs rd _ => Machine.sprImplemented rd
  | .movsg _ rs => Machine.sprImplemented rs
  | _ => true

/-- `Instr.wellFormed` as a proposition, decidable as it stands. -/
abbrev WellFormed (i : Instr) : Prop := i.wellFormed = true

end Sys2Proof
end

