-- ==== Sys2Proof/Safety.lean ====
section
/-! DEFINITION. The terms statements are made in: what an instruction leaves unchanged, what one register write, store, jump or
trap entry comes to, the invariant every step keeps, and what a run that cannot stop needs. -/

namespace Sys2Proof.Machine

/-- Every general register reads as before. -/
def RegsSame (s t : State) : Prop := ∀ r : RegId, t.readReg r = s.readReg r

/-- Every special register, the control bits among them, holds what it held. -/
def SprsSame (s t : State) : Prop := ∀ i : RegId, t.readSpr i = s.readSpr i

/-- Every byte of memory reads as before. -/
def MemSame (s t : State) : Prop := ∀ k : Nat, Memory.byte t.mem k = Memory.byte s.mem k

/-- What stands outside the CPU is as before: the interrupt lines, the memory map, the device accesses, the draws. -/
def OutsideSame (s t : State) : Prop :=
  t.pending = s.pending ∧ t.memMap = s.memMap ∧ t.deviceLog = s.deviceLog ∧ t.draws = s.draws

/-- `t` is `s` with the program counter at `a` and nothing else changed. -/
def OnlyPc (s : State) (a : Addr) (t : State) : Prop :=
  t.pc = a ∧ RegsSame s t ∧ SprsSame s t ∧ MemSame s t ∧ OutsideSame s t

/-- `t` is `s` with `x[rd]` written, nothing where `rd` is register 0 (R11), the program counter at `a`, and nothing else
changed. -/
def WritesRegGoing (s : State) (rd : RegId) (v : Word) (a : Addr) (t : State) : Prop :=
  t.pc = a ∧ (∀ r : RegId, t.readReg r = if r = 0#4 then 0#32 else if r = rd then v else s.readReg r) ∧
    SprsSame s t ∧ MemSame s t ∧ OutsideSame s t

/-- `t` is `s` with `x[rd]` written (nothing where `rd` is register 0), fallen through, and nothing else changed. -/
def WritesReg (s : State) (rd : RegId) (v : Word) (t : State) : Prop := WritesRegGoing s rd v (nextAddr s.pc) t

/-- `t` is `s` with `s[i]` written, fallen through, and nothing else changed. -/
def WritesSpr (s : State) (i : RegId) (v : Word) (t : State) : Prop :=
  t.pc = nextAddr s.pc ∧ RegsSame s t ∧ (∀ j : RegId, t.readSpr j = if j = i then v else s.readSpr j) ∧
    MemSame s t ∧ OutsideSame s t

/-- `t` is `s` with the word at `a` set to `v`, fallen through, and nothing else changed: every byte outside the word's four
reads as before. -/
def StoresWord (s : State) (a : Addr) (v : Word) (t : State) : Prop :=
  t.pc = nextAddr s.pc ∧ RegsSame s t ∧ SprsSame s t ∧ Memory.word t.mem a = v ∧
    (∀ k : Nat, k < wordKey a ∨ wordKey a + 3 < k → Memory.byte t.mem k = Memory.byte s.mem k) ∧ OutsideSame s t

/-- A bit of the control register that is none of the four control bits. -/
def OtherControlBit (n : Nat) : Prop := n ≠ bitIE ∧ n ≠ bitKU ∧ n ≠ bitOIE ∧ n ≠ bitOKU

/-- `t` is what trap entry for `c` with return address `ret` makes of `s` (R230): the saved bits, interrupts off, kernel mode,
the return address in `$ear`, the cause recorded, the program counter at the handler, and nothing else changed. -/
def TrapTaken (s : State) (c : Config.Cause) (ret : Addr) (t : State) : Prop :=
  t.oie = s.ie ∧ t.oku = s.ku ∧ t.ie = false ∧ t.ku = .kernel ∧
    t.readSpr sprEar = zext20 ret ∧ t.readSpr sprEstat = causeWord c ∧ t.pc = s.handlerAddress ∧
    (∀ n, OtherControlBit n → (t.readSpr sprCtrl).getLsbD n = (s.readSpr sprCtrl).getLsbD n) ∧
    (∀ i, i ≠ sprCtrl → i ≠ sprEar → i ≠ sprEstat → t.readSpr i = s.readSpr i) ∧
    RegsSame s t ∧ MemSame s t ∧ OutsideSame s t

/-- The instruction at `pc` raises `e`: trap entry with return address `pc_next` (R231). -/
def Raises (s : State) (e : Config.Exc) (t : State) : Prop := TrapTaken s (.exception e) (nextAddr s.pc) t

/-- What an arithmetic instruction with destination `rd` comes to: the value written, or the exception raised with the
destination unwritten (R99, D12). -/
def Finishes (s : State) (rd : RegId) (r : Arith) (t : State) : Prop :=
  match r with
  | .value v => WritesReg s rd v t
  | .raise e => Raises s e t

/-- An exact integer fits the signed reading of 32 bits (R99 (b)). -/
abbrev FitsSigned (t : Int) : Prop := -2147483648 ≤ t ∧ t ≤ 2147483647

/-- An exact integer fits the unsigned reading of 32 bits (R99 (b)). -/
abbrev FitsUnsigned (t : Int) : Prop := 0 ≤ t ∧ t ≤ 4294967295

/-- The operands of the one signed division whose quotient does not fit (R99 (g), D14). -/
abbrev SignedDivisionCorner (a b : Int) : Prop := a = -2147483648 ∧ b = -1

/-- `t` is what `rfe` makes of `s` in kernel mode (R199, R235): the saved bits restored and kept, the program counter at
`$ear`, and nothing else changed. -/
def ReturnsFromTrap (s t : State) : Prop :=
  t.ie = s.oie ∧ t.ku = s.oku ∧ t.oie = s.oie ∧ t.oku = s.oku ∧ t.pc = low20 (s.readSpr sprEar) ∧
    (∀ n, OtherControlBit n → (t.readSpr sprCtrl).getLsbD n = (s.readSpr sprCtrl).getLsbD n) ∧
    (∀ i, i ≠ sprCtrl → t.readSpr i = s.readSpr i) ∧ RegsSame s t ∧ MemSame s t ∧ OutsideSame s t

/-- The invariant every step keeps: memory is in its canonical form. -/
def Inv (s : State) : Prop := Memory.wf s.mem = true

/-- Every address has something at it: no access of a run can stop the machine (R42). -/
def MapTotal (s : State) : Prop := ∀ a : Addr, kindAt s.memMap a ≠ .unmapped

/-- The word the next fetch reads, if it decodes, decodes to a well-formed instruction. -/
def FetchesWellFormed (s : State) : Prop :=
  ∀ w t i, s.fetch = .done w t → decode w = .ok i → WellFormed i

/-- The instructions that can raise no exception in kernel mode (R252), `movgs` apart: bitwise and shift, test, `lhi`, `la`, the
branches, `lw`, `sw` and `movsg`. -/
def neverTrapsInKernel : Instr → Bool
  | .and .. | .andi .. | .or .. | .ori .. | .xor .. | .xori .. => true
  | .sll .. | .slli .. | .srl .. | .srli .. | .sra .. | .srai .. => true
  | .slt .. | .slti .. | .sltu .. | .sltui .. | .sgt .. | .sgti .. | .sgtu .. | .sgtui .. => true
  | .sle .. | .slei .. | .sleu .. | .sleui .. | .sge .. | .sgei .. | .sgeu .. | .sgeui .. => true
  | .seq .. | .seqi .. | .sequ .. | .sequi .. | .sne .. | .snei .. | .sneu .. | .sneui .. => true
  | .lhi .. | .la .. | .j .. | .jr .. | .jal .. | .jalr .. | .beqz .. | .bnez .. | .lw .. | .sw .. | .movsg .. => true
  | _ => false

end Sys2Proof.Machine
end

