-- ==== Sys2Proof/Certificates/Slice0/Obligations.lean ====
section
/-! DEFINITION. The statements for the provers, in the terms of Sys2Proof/Safety.lean. Each docstring cites the rules or the
sections a statement formalises and says which decisions of the spec and which log entries it rests on. -/

open Sys2Proof Sys2Proof.Machine

/-- Words the spec gives as examples decode to the instructions it names. The words and their instructions stand under
"Example" of rules R100, R101, R120, R121, R130, R141, R150, R173, R180, R183, R185, R190, R191, R195, R196 (with `$ear`
number 9, GK2), R197, R198 and R199. -/
def Obligations.SpecExampleWordsDecode : Prop :=
  decode 0x03100002#32 = .ok (.add 3#4 1#4 2#4) ∧
    decode 0x1310FFFF#32 = .ok (.addi 3#4 1#4 0xFFFF#16) ∧
    decode 0x330E1234#32 = .ok (.lhi 3#4 0x1234#16) ∧
    decode 0xC1012345#32 = .ok (.la 1#4 0x12345#20) ∧
    decode 0x031B0002#32 = .ok (.and 3#4 1#4 2#4) ∧
    decode 0x131E0008#32 = .ok (.srai 3#4 1#4 8#16) ∧
    decode 0x23100002#32 = .ok (.slt 3#4 1#4 2#4) ∧
    decode 0x331BFFFF#32 = .ok (.sneui 3#4 1#4 0xFFFF#16) ∧
    decode 0x40000010#32 = .ok (.j 0x00010#20) ∧
    decode 0x70500000#32 = .ok (.jalr 5#4) ∧
    decode 0xB01FFFFD#32 = .ok (.bnez 1#4 0xFFFFD#20) ∧
    decode 0x82100004#32 = .ok (.lw 2#4 1#4 4#20) ∧
    decode 0x92100004#32 = .ok (.sw 2#4 1#4 4#20) ∧
    decode 0x391C0000#32 = .ok (.movgs 9#4 1#4) ∧
    decode 0x319D0000#32 = .ok (.movsg 1#4 9#4) ∧
    decode 0x200C0000#32 = .ok .brk ∧
    decode 0x200D0000#32 = .ok .syscall ∧
    decode 0x200E0000#32 = .ok .rfe

/-- Decoding the word of any instruction gives the instruction back. The encodings of 30_encoding.md sections 1 and 2, all 71
instructions with all operands. -/
def Obligations.DecodeOfEncodeIsTheInstruction : Prop :=
  ∀ i : Instr, decode (encode i) = .ok i

/-- A word that decodes is the word of the instruction it decodes to. The constant bits are part of the pattern (the spec's
decision D11) and every other bit is an operand's. -/
def Obligations.EncodeOfDecodedWordIsTheWord : Prop :=
  ∀ (w : Word) (i : Instr), decode w = .ok i → encode i = w

/-- A word decodes to an instruction exactly when it matches a row of the opcode table, the instruction's own. The equivalence
of the field-by-field procedure and the table that 30_encoding.md section 3 derives. -/
def Obligations.DecodeFollowsTheOpcodeTable : Prop :=
  (∀ (w : Word) (i : Instr), decode w = .ok i → i.row ∈ opcodeRows ∧ w &&& i.row.mask = i.row.pattern) ∧
    (∀ (w : Word) (r : OpcodeRow), r ∈ opcodeRows → w &&& r.mask = r.pattern → ∃ i, decode w = .ok i ∧ i.row = r)

/-- No word matches two rows of the opcode table. The rows' (mask, match) pairs are pairwise disjoint (30_encoding.md section
3). -/
def Obligations.OpcodeRowsAreDisjoint : Prop :=
  ∀ (w : Word) (r q : OpcodeRow), r ∈ opcodeRows → q ∈ opcodeRows →
    w &&& r.mask = r.pattern → w &&& q.mask = q.pattern → r = q

/-- Unused OPcode and Func values are rejected by name. The encodings no instruction uses, listed in 30_encoding.md section 4.
That such a word is no instruction rests on the spec's decision D10. -/
def Obligations.UnusedEncodingsAreRejected : Prop :=
  ∀ w : Word,
    ((fieldOp w = 0xD#4 ∨ fieldOp w = 0xE#4 ∨ fieldOp w = 0xF#4) → decode w = .error .unusedOpcode) ∧
    ((fieldOp w = 0x2#4 ∨ fieldOp w = 0x3#4) → fieldFunc w = 0xF#4 → decode w = .error .unusedFunction)

/-- How immediates, offsets, addresses and shift amounts become operands, in exact integers. The operand column of the table
in 30_encoding.md section 3. -/
def Obligations.OperandAssembly : Prop :=
  ∀ (imm : Imm16) (f : Imm20) (v : Word),
    (sext16 imm).toInt = imm.toInt ∧ (zext16 imm).toNat = imm.toNat ∧ (sext20 f).toInt = f.toInt ∧ (zext20 f).toNat = f.toNat ∧
    (highImmediate imm).toNat = imm.toNat * 65536 ∧ shiftAmountImm imm = imm.toNat % 32 ∧ shiftAmount v = v.toNat % 32 ∧
    (low20 v).toNat = v.toNat % 1048576

/-- Register 0 reads zero and discards writes; every other register reads the last write. 10_state.md section 1. -/
def Obligations.RegisterZeroIsHardwired : Prop :=
  (∀ (s : State) (r q : RegId) (v : Word),
      (s.writeReg r v).readReg q = if q = 0#4 then 0#32 else if q = r then v else s.readReg q) ∧
    (∀ (s : State) (v : Word), s.writeReg 0#4 v = s)

/-- After reset: kernel mode, interrupts off, register 0 reads zero. The values 10_state.md section 8 gives, which are the
spec's decision D27. The statement names no value that is a DESIGN CHOICE of the model. -/
def Obligations.ResetLeavesKernelModeInterruptsOff : Prop :=
  State.reset.ku = .kernel ∧ State.reset.ie = false ∧ State.reset.readReg 0#4 = 0#32 ∧ State.reset.deliverable = 0#8

/-- Memory is in its canonical form after reset. The model's own convention (logs 1 and 2). -/
def Obligations.ResetMemoryIsCanonical : Prop :=
  Inv State.reset

/-- Every step from any state with canonical memory leaves memory canonical. The model's own convention (logs 1 and 2) about
the memory of 20_memory.md section 1. -/
def Obligations.EveryStepKeepsMemoryCanonical : Prop :=
  ∀ s t : State, Inv s → step s = .next t → Inv t

/-- add, addi, sub, subi, mult, multi write the exact signed result where it fits in 32 bits. The laws of 40_arithmetic.md,
parts (a) and (b), and the six instructions' sections. The criterion is (b)'s (decisions D12, D35). -/
def Obligations.SignedSumDifferenceProductAreExact : Prop :=
  ∀ (s : State) (rd rs rt : RegId) (imm : Imm16),
    (FitsSigned ((s.readReg rs).toInt + (s.readReg rt).toInt) →
      ∃ v t, v.toInt = (s.readReg rs).toInt + (s.readReg rt).toInt ∧ exec (.add rd rs rt) s = .next t ∧ WritesReg s rd v t) ∧
    (FitsSigned ((s.readReg rs).toInt + imm.toInt) →
      ∃ v t, v.toInt = (s.readReg rs).toInt + imm.toInt ∧ exec (.addi rd rs imm) s = .next t ∧ WritesReg s rd v t) ∧
    (FitsSigned ((s.readReg rs).toInt - (s.readReg rt).toInt) →
      ∃ v t, v.toInt = (s.readReg rs).toInt - (s.readReg rt).toInt ∧ exec (.sub rd rs rt) s = .next t ∧ WritesReg s rd v t) ∧
    (FitsSigned ((s.readReg rs).toInt - imm.toInt) →
      ∃ v t, v.toInt = (s.readReg rs).toInt - imm.toInt ∧ exec (.subi rd rs imm) s = .next t ∧ WritesReg s rd v t) ∧
    (FitsSigned ((s.readReg rs).toInt * (s.readReg rt).toInt) →
      ∃ v t, v.toInt = (s.readReg rs).toInt * (s.readReg rt).toInt ∧ exec (.mult rd rs rt) s = .next t ∧ WritesReg s rd v t) ∧
    (FitsSigned ((s.readReg rs).toInt * imm.toInt) →
      ∃ v t, v.toInt = (s.readReg rs).toInt * imm.toInt ∧ exec (.multi rd rs imm) s = .next t ∧ WritesReg s rd v t)

/-- addu, addui, subu, subui, multu, multui write the exact unsigned result where it fits in 32 bits. The laws of
40_arithmetic.md, parts (a) and (b), and the six instructions' sections. The criterion is (b)'s (decisions D12, D35). -/
def Obligations.UnsignedSumDifferenceProductAreExact : Prop :=
  ∀ (s : State) (rd rs rt : RegId) (imm : Imm16),
    (FitsUnsigned (((s.readReg rs).toNat : Int) + ((s.readReg rt).toNat : Int)) →
      ∃ v t, (v.toNat : Int) = ((s.readReg rs).toNat : Int) + ((s.readReg rt).toNat : Int) ∧ exec (.addu rd rs rt) s = .next t ∧ WritesReg s rd v t) ∧
    (FitsUnsigned (((s.readReg rs).toNat : Int) + (imm.toNat : Int)) →
      ∃ v t, (v.toNat : Int) = ((s.readReg rs).toNat : Int) + (imm.toNat : Int) ∧ exec (.addui rd rs imm) s = .next t ∧ WritesReg s rd v t) ∧
    (FitsUnsigned (((s.readReg rs).toNat : Int) - ((s.readReg rt).toNat : Int)) →
      ∃ v t, (v.toNat : Int) = ((s.readReg rs).toNat : Int) - ((s.readReg rt).toNat : Int) ∧ exec (.subu rd rs rt) s = .next t ∧ WritesReg s rd v t) ∧
    (FitsUnsigned (((s.readReg rs).toNat : Int) - (imm.toNat : Int)) →
      ∃ v t, (v.toNat : Int) = ((s.readReg rs).toNat : Int) - (imm.toNat : Int) ∧ exec (.subui rd rs imm) s = .next t ∧ WritesReg s rd v t) ∧
    (FitsUnsigned (((s.readReg rs).toNat : Int) * ((s.readReg rt).toNat : Int)) →
      ∃ v t, (v.toNat : Int) = ((s.readReg rs).toNat : Int) * ((s.readReg rt).toNat : Int) ∧ exec (.multu rd rs rt) s = .next t ∧ WritesReg s rd v t) ∧
    (FitsUnsigned (((s.readReg rs).toNat : Int) * (imm.toNat : Int)) →
      ∃ v t, (v.toNat : Int) = ((s.readReg rs).toNat : Int) * (imm.toNat : Int) ∧ exec (.multui rd rs imm) s = .next t ∧ WritesReg s rd v t)

/-- add, addi, sub, subi, mult, multi take the overflow exception where the signed result does not fit. Decisions D12, D18,
D19, D35 of the spec; what trap entry writes is the model's choice in part (logs 7, 11, 12, 13). -/
def Obligations.SignedOverflowTraps : Prop :=
  ∀ (s : State) (rd rs rt : RegId) (imm : Imm16),
    (¬ FitsSigned ((s.readReg rs).toInt + (s.readReg rt).toInt) →
      ∃ t, exec (.add rd rs rt) s = .next t ∧ Raises s .overflow t) ∧
    (¬ FitsSigned ((s.readReg rs).toInt + imm.toInt) →
      ∃ t, exec (.addi rd rs imm) s = .next t ∧ Raises s .overflow t) ∧
    (¬ FitsSigned ((s.readReg rs).toInt - (s.readReg rt).toInt) →
      ∃ t, exec (.sub rd rs rt) s = .next t ∧ Raises s .overflow t) ∧
    (¬ FitsSigned ((s.readReg rs).toInt - imm.toInt) →
      ∃ t, exec (.subi rd rs imm) s = .next t ∧ Raises s .overflow t) ∧
    (¬ FitsSigned ((s.readReg rs).toInt * (s.readReg rt).toInt) →
      ∃ t, exec (.mult rd rs rt) s = .next t ∧ Raises s .overflow t) ∧
    (¬ FitsSigned ((s.readReg rs).toInt * imm.toInt) →
      ∃ t, exec (.multi rd rs imm) s = .next t ∧ Raises s .overflow t)

/-- addu, addui, subu, subui, multu, multui take the overflow exception where the unsigned result does not fit. Decisions D12,
D18, D19, D35 of the spec; what trap entry writes is the model's choice in part (logs 7, 11, 12, 13). -/
def Obligations.UnsignedOverflowTraps : Prop :=
  ∀ (s : State) (rd rs rt : RegId) (imm : Imm16),
    (¬ FitsUnsigned (((s.readReg rs).toNat : Int) + ((s.readReg rt).toNat : Int)) →
      ∃ t, exec (.addu rd rs rt) s = .next t ∧ Raises s .overflow t) ∧
    (¬ FitsUnsigned (((s.readReg rs).toNat : Int) + (imm.toNat : Int)) →
      ∃ t, exec (.addui rd rs imm) s = .next t ∧ Raises s .overflow t) ∧
    (¬ FitsUnsigned (((s.readReg rs).toNat : Int) - ((s.readReg rt).toNat : Int)) →
      ∃ t, exec (.subu rd rs rt) s = .next t ∧ Raises s .overflow t) ∧
    (¬ FitsUnsigned (((s.readReg rs).toNat : Int) - (imm.toNat : Int)) →
      ∃ t, exec (.subui rd rs imm) s = .next t ∧ Raises s .overflow t) ∧
    (¬ FitsUnsigned (((s.readReg rs).toNat : Int) * ((s.readReg rt).toNat : Int)) →
      ∃ t, exec (.multu rd rs rt) s = .next t ∧ Raises s .overflow t) ∧
    (¬ FitsUnsigned (((s.readReg rs).toNat : Int) * (imm.toNat : Int)) →
      ∃ t, exec (.multui rd rs imm) s = .next t ∧ Raises s .overflow t)

/-- div, divi, rem, remi write the quotient rounded toward zero and its remainder. The laws of 40_arithmetic.md, part (f):
rounding toward zero is the spec's decision D13. -/
def Obligations.SignedQuotientAndRemainder : Prop :=
  ∀ (s : State) (rd rs rt : RegId) (imm : Imm16),
    ((s.readReg rt) ≠ 0#32 → ¬ SignedDivisionCorner (s.readReg rs).toInt (s.readReg rt).toInt →
      ∃ v t, v.toInt = (s.readReg rs).toInt.tdiv (s.readReg rt).toInt ∧ exec (.div rd rs rt) s = .next t ∧ WritesReg s rd v t) ∧
    (imm ≠ 0#16 → ¬ SignedDivisionCorner (s.readReg rs).toInt imm.toInt →
      ∃ v t, v.toInt = (s.readReg rs).toInt.tdiv imm.toInt ∧ exec (.divi rd rs imm) s = .next t ∧ WritesReg s rd v t) ∧
    ((s.readReg rt) ≠ 0#32 → ¬ SignedDivisionCorner (s.readReg rs).toInt (s.readReg rt).toInt →
      ∃ v t, v.toInt = (s.readReg rs).toInt - (s.readReg rt).toInt * (s.readReg rs).toInt.tdiv (s.readReg rt).toInt ∧ exec (.rem rd rs rt) s = .next t ∧ WritesReg s rd v t) ∧
    (imm ≠ 0#16 → ¬ SignedDivisionCorner (s.readReg rs).toInt imm.toInt →
      ∃ v t, v.toInt = (s.readReg rs).toInt - imm.toInt * (s.readReg rs).toInt.tdiv imm.toInt ∧ exec (.remi rd rs imm) s = .next t ∧ WritesReg s rd v t)

/-- divu, divui, remu, remui write the floor quotient and its remainder. The laws of 40_arithmetic.md, part (e). -/
def Obligations.UnsignedQuotientAndRemainder : Prop :=
  ∀ (s : State) (rd rs rt : RegId) (imm : Imm16),
    ((s.readReg rt) ≠ 0#32 →
      ∃ v t, v.toNat = (s.readReg rs).toNat / (s.readReg rt).toNat ∧ exec (.divu rd rs rt) s = .next t ∧ WritesReg s rd v t) ∧
    (imm ≠ 0#16 →
      ∃ v t, v.toNat = (s.readReg rs).toNat / imm.toNat ∧ exec (.divui rd rs imm) s = .next t ∧ WritesReg s rd v t) ∧
    ((s.readReg rt) ≠ 0#32 →
      ∃ v t, v.toNat = (s.readReg rs).toNat % (s.readReg rt).toNat ∧ exec (.remu rd rs rt) s = .next t ∧ WritesReg s rd v t) ∧
    (imm ≠ 0#16 →
      ∃ v t, v.toNat = (s.readReg rs).toNat % imm.toNat ∧ exec (.remui rd rs imm) s = .next t ∧ WritesReg s rd v t)

/-- The eight divide and remainder instructions take the divide-by-zero exception where the divisor is zero. Decisions D12,
D18 and D19 of the spec; what trap entry writes is the model's choice in part (logs 7, 11, 12, 13). -/
def Obligations.DivisionByZeroTraps : Prop :=
  ∀ (s : State) (rd rs rt : RegId),
    ((s.readReg rt) = 0#32 → ∃ t, exec (.div rd rs rt) s = .next t ∧ Raises s .divideByZero t) ∧
    ((s.readReg rt) = 0#32 → ∃ t, exec (.divu rd rs rt) s = .next t ∧ Raises s .divideByZero t) ∧
    ((s.readReg rt) = 0#32 → ∃ t, exec (.rem rd rs rt) s = .next t ∧ Raises s .divideByZero t) ∧
    ((s.readReg rt) = 0#32 → ∃ t, exec (.remu rd rs rt) s = .next t ∧ Raises s .divideByZero t) ∧
    (∃ t, exec (.divi rd rs 0#16) s = .next t ∧ Raises s .divideByZero t) ∧
    (∃ t, exec (.divui rd rs 0#16) s = .next t ∧ Raises s .divideByZero t) ∧
    (∃ t, exec (.remi rd rs 0#16) s = .next t ∧ Raises s .divideByZero t) ∧
    (∃ t, exec (.remui rd rs 0#16) s = .next t ∧ Raises s .divideByZero t)

/-- The model's free parameter: -2^31 divided by -1 takes the next state that sdiv_min_by_minus1 says (log 18). The open
parameter of 40_arithmetic.md (g), decision D14, held as a free value (log 18); where it is an exception, what trap entry
writes is the model's choice in part (logs 7, 11, 12, 13). -/
def Obligations.SignedDivisionCornerIsTheOpenParameter : Prop :=
  ∀ (s : State) (rd rs rt : RegId) (imm : Imm16),
    (SignedDivisionCorner (s.readReg rs).toInt (s.readReg rt).toInt →
      ∃ t, exec (.div rd rs rt) s = .next t ∧
        match Config.sdivMinByMinus1 with
        | .values q _ => WritesReg s rd q t
        | .raises e => Raises s e t) ∧
    (SignedDivisionCorner (s.readReg rs).toInt imm.toInt →
      ∃ t, exec (.divi rd rs imm) s = .next t ∧
        match Config.sdivMinByMinus1 with
        | .values q _ => WritesReg s rd q t
        | .raises e => Raises s e t) ∧
    (SignedDivisionCorner (s.readReg rs).toInt (s.readReg rt).toInt →
      ∃ t, exec (.rem rd rs rt) s = .next t ∧
        match Config.sdivMinByMinus1 with
        | .values _ r => WritesReg s rd r t
        | .raises e => Raises s e t) ∧
    (SignedDivisionCorner (s.readReg rs).toInt imm.toInt →
      ∃ t, exec (.remi rd rs imm) s = .next t ∧
        match Config.sdivMinByMinus1 with
        | .values _ r => WritesReg s rd r t
        | .raises e => Raises s e t)

/-- Quotient times divisor plus remainder is the dividend, the remainder smaller and of the dividend's sign. The identity
under `rem` and the laws (e) and (f) of 40_arithmetic.md (decision D13). -/
def Obligations.DivisionIdentity : Prop :=
  ∀ (s tq tr : State) (rd rs rt : RegId), rd ≠ 0#4 → (s.readReg rt) ≠ 0#32 →
    (exec (.divu rd rs rt) s = .next tq → exec (.remu rd rs rt) s = .next tr →
      (s.readReg rs).toNat = (s.readReg rt).toNat * (tq.readReg rd).toNat + (tr.readReg rd).toNat ∧
      (tr.readReg rd).toNat < (s.readReg rt).toNat) ∧
    (¬ SignedDivisionCorner (s.readReg rs).toInt (s.readReg rt).toInt →
      exec (.div rd rs rt) s = .next tq → exec (.rem rd rs rt) s = .next tr →
      (s.readReg rs).toInt = (s.readReg rt).toInt * (tq.readReg rd).toInt + (tr.readReg rd).toInt ∧
      (tr.readReg rd).toInt.natAbs < (s.readReg rt).toInt.natAbs ∧
      (0 ≤ (s.readReg rs).toInt → 0 ≤ (tr.readReg rd).toInt) ∧
      ((s.readReg rs).toInt ≤ 0 → (tr.readReg rd).toInt ≤ 0))

/-- lhi writes the immediate to the upper half, la the zero-extended address. R120 and R121. -/
def Obligations.LoadHighAndLoadAddress : Prop :=
  ∀ (s : State) (rd : RegId) (imm : Imm16) (addr : Imm20),
    decode (wordI 0b0011#4 0b1110#4 rd 0b0000#4 imm) = .ok (.lhi rd imm) ∧
    (∃ t, exec (.lhi rd imm) s = .next t ∧ WritesReg s rd (BitVec.ofNat 32 (imm.toNat * 2 ^ 16)) t) ∧
    decode (wordJ 0b1100#4 rd 0b0000#4 addr) = .ok (.la rd addr) ∧
    (∃ t, exec (.la rd addr) s = .next t ∧ WritesReg s rd (BitVec.ofNat 32 addr.toNat) t)

/-- and, or, xor and their immediate forms write the bitwise result. R130 to R135. -/
def Obligations.LogicalOperations : Prop :=
  ∀ (s : State) (rd rs rt : RegId) (imm : Imm16),
    decode (wordR 0b0000#4 0b1011#4 rd rs rt) = .ok (.and rd rs rt) ∧
    (∃ t, exec (.and rd rs rt) s = .next t ∧ WritesReg s rd ((s.readReg rs) &&& (s.readReg rt)) t) ∧
    decode (wordI 0b0001#4 0b1011#4 rd rs imm) = .ok (.andi rd rs imm) ∧
    (∃ t, exec (.andi rd rs imm) s = .next t ∧ WritesReg s rd ((s.readReg rs) &&& BitVec.ofNat 32 imm.toNat) t) ∧
    decode (wordR 0b0000#4 0b1101#4 rd rs rt) = .ok (.or rd rs rt) ∧
    (∃ t, exec (.or rd rs rt) s = .next t ∧ WritesReg s rd ((s.readReg rs) ||| (s.readReg rt)) t) ∧
    decode (wordI 0b0001#4 0b1101#4 rd rs imm) = .ok (.ori rd rs imm) ∧
    (∃ t, exec (.ori rd rs imm) s = .next t ∧ WritesReg s rd ((s.readReg rs) ||| BitVec.ofNat 32 imm.toNat) t) ∧
    decode (wordR 0b0000#4 0b1111#4 rd rs rt) = .ok (.xor rd rs rt) ∧
    (∃ t, exec (.xor rd rs rt) s = .next t ∧ WritesReg s rd ((s.readReg rs) ^^^ (s.readReg rt)) t) ∧
    decode (wordI 0b0001#4 0b1111#4 rd rs imm) = .ok (.xori rd rs imm) ∧
    (∃ t, exec (.xori rd rs imm) s = .next t ∧ WritesReg s rd ((s.readReg rs) ^^^ BitVec.ofNat 32 imm.toNat) t)

/-- The six shifts are multiplication and floor division by 2^n, n the low five bits of the second operand. R136 to R141. -/
def Obligations.ShiftsAreExactByTheLowFiveBits : Prop :=
  ∀ (s : State) (rd rs rt : RegId) (imm : Imm16),
    decode (wordR 0b0000#4 0b1010#4 rd rs rt) = .ok (.sll rd rs rt) ∧
    (∃ t, exec (.sll rd rs rt) s = .next t ∧ WritesReg s rd (BitVec.ofNat 32 ((s.readReg rs).toNat * 2 ^ ((s.readReg rt).toNat % 32))) t) ∧
    decode (wordI 0b0001#4 0b1010#4 rd rs imm) = .ok (.slli rd rs imm) ∧
    (∃ t, exec (.slli rd rs imm) s = .next t ∧ WritesReg s rd (BitVec.ofNat 32 ((s.readReg rs).toNat * 2 ^ (imm.toNat % 32))) t) ∧
    decode (wordR 0b0000#4 0b1100#4 rd rs rt) = .ok (.srl rd rs rt) ∧
    (∃ t, exec (.srl rd rs rt) s = .next t ∧ WritesReg s rd (BitVec.ofNat 32 ((s.readReg rs).toNat / 2 ^ ((s.readReg rt).toNat % 32))) t) ∧
    decode (wordI 0b0001#4 0b1100#4 rd rs imm) = .ok (.srli rd rs imm) ∧
    (∃ t, exec (.srli rd rs imm) s = .next t ∧ WritesReg s rd (BitVec.ofNat 32 ((s.readReg rs).toNat / 2 ^ (imm.toNat % 32))) t) ∧
    decode (wordR 0b0000#4 0b1110#4 rd rs rt) = .ok (.sra rd rs rt) ∧
    (∃ t, exec (.sra rd rs rt) s = .next t ∧ WritesReg s rd (BitVec.ofInt 32 ((s.readReg rs).toInt / 2 ^ ((s.readReg rt).toNat % 32))) t) ∧
    decode (wordI 0b0001#4 0b1110#4 rd rs imm) = .ok (.srai rd rs imm) ∧
    (∃ t, exec (.srai rd rs imm) s = .next t ∧ WritesReg s rd (BitVec.ofInt 32 ((s.readReg rs).toInt / 2 ^ (imm.toNat % 32))) t)

/-- The twelve register tests write 1 where the relation of the exact values holds and 0 where it does not. R150, R152, ...,
R172. -/
def Obligations.RegisterTestsWriteOneOrZero : Prop :=
  ∀ (s : State) (rd rs rt : RegId),
    decode (wordR 0b0010#4 0b0000#4 rd rs rt) = .ok (.slt rd rs rt) ∧
    (∃ t, exec (.slt rd rs rt) s = .next t ∧ WritesReg s rd (if (s.readReg rs).toInt < (s.readReg rt).toInt then 1#32 else 0#32) t) ∧
    decode (wordR 0b0010#4 0b0001#4 rd rs rt) = .ok (.sltu rd rs rt) ∧
    (∃ t, exec (.sltu rd rs rt) s = .next t ∧ WritesReg s rd (if (s.readReg rs).toNat < (s.readReg rt).toNat then 1#32 else 0#32) t) ∧
    decode (wordR 0b0010#4 0b0010#4 rd rs rt) = .ok (.sgt rd rs rt) ∧
    (∃ t, exec (.sgt rd rs rt) s = .next t ∧ WritesReg s rd (if (s.readReg rs).toInt > (s.readReg rt).toInt then 1#32 else 0#32) t) ∧
    decode (wordR 0b0010#4 0b0011#4 rd rs rt) = .ok (.sgtu rd rs rt) ∧
    (∃ t, exec (.sgtu rd rs rt) s = .next t ∧ WritesReg s rd (if (s.readReg rs).toNat > (s.readReg rt).toNat then 1#32 else 0#32) t) ∧
    decode (wordR 0b0010#4 0b0100#4 rd rs rt) = .ok (.sle rd rs rt) ∧
    (∃ t, exec (.sle rd rs rt) s = .next t ∧ WritesReg s rd (if (s.readReg rs).toInt ≤ (s.readReg rt).toInt then 1#32 else 0#32) t) ∧
    decode (wordR 0b0010#4 0b0101#4 rd rs rt) = .ok (.sleu rd rs rt) ∧
    (∃ t, exec (.sleu rd rs rt) s = .next t ∧ WritesReg s rd (if (s.readReg rs).toNat ≤ (s.readReg rt).toNat then 1#32 else 0#32) t) ∧
    decode (wordR 0b0010#4 0b0110#4 rd rs rt) = .ok (.sge rd rs rt) ∧
    (∃ t, exec (.sge rd rs rt) s = .next t ∧ WritesReg s rd (if (s.readReg rs).toInt ≥ (s.readReg rt).toInt then 1#32 else 0#32) t) ∧
    decode (wordR 0b0010#4 0b0111#4 rd rs rt) = .ok (.sgeu rd rs rt) ∧
    (∃ t, exec (.sgeu rd rs rt) s = .next t ∧ WritesReg s rd (if (s.readReg rs).toNat ≥ (s.readReg rt).toNat then 1#32 else 0#32) t) ∧
    decode (wordR 0b0010#4 0b1000#4 rd rs rt) = .ok (.seq rd rs rt) ∧
    (∃ t, exec (.seq rd rs rt) s = .next t ∧ WritesReg s rd (if (s.readReg rs).toInt = (s.readReg rt).toInt then 1#32 else 0#32) t) ∧
    decode (wordR 0b0010#4 0b1001#4 rd rs rt) = .ok (.sequ rd rs rt) ∧
    (∃ t, exec (.sequ rd rs rt) s = .next t ∧ WritesReg s rd (if (s.readReg rs).toNat = (s.readReg rt).toNat then 1#32 else 0#32) t) ∧
    decode (wordR 0b0010#4 0b1010#4 rd rs rt) = .ok (.sne rd rs rt) ∧
    (∃ t, exec (.sne rd rs rt) s = .next t ∧ WritesReg s rd (if (s.readReg rs).toInt ≠ (s.readReg rt).toInt then 1#32 else 0#32) t) ∧
    decode (wordR 0b0010#4 0b1011#4 rd rs rt) = .ok (.sneu rd rs rt) ∧
    (∃ t, exec (.sneu rd rs rt) s = .next t ∧ WritesReg s rd (if (s.readReg rs).toNat ≠ (s.readReg rt).toNat then 1#32 else 0#32) t)

/-- The twelve immediate tests compare x[Rs] with the extended immediate and write 1 or 0. R151, R153, ..., R173. -/
def Obligations.ImmediateTestsWriteOneOrZero : Prop :=
  ∀ (s : State) (rd rs : RegId) (imm : Imm16),
    decode (wordI 0b0011#4 0b0000#4 rd rs imm) = .ok (.slti rd rs imm) ∧
    (∃ t, exec (.slti rd rs imm) s = .next t ∧ WritesReg s rd (if (s.readReg rs).toInt < imm.toInt then 1#32 else 0#32) t) ∧
    decode (wordI 0b0011#4 0b0001#4 rd rs imm) = .ok (.sltui rd rs imm) ∧
    (∃ t, exec (.sltui rd rs imm) s = .next t ∧ WritesReg s rd (if (s.readReg rs).toNat < imm.toNat then 1#32 else 0#32) t) ∧
    decode (wordI 0b0011#4 0b0010#4 rd rs imm) = .ok (.sgti rd rs imm) ∧
    (∃ t, exec (.sgti rd rs imm) s = .next t ∧ WritesReg s rd (if (s.readReg rs).toInt > imm.toInt then 1#32 else 0#32) t) ∧
    decode (wordI 0b0011#4 0b0011#4 rd rs imm) = .ok (.sgtui rd rs imm) ∧
    (∃ t, exec (.sgtui rd rs imm) s = .next t ∧ WritesReg s rd (if (s.readReg rs).toNat > imm.toNat then 1#32 else 0#32) t) ∧
    decode (wordI 0b0011#4 0b0100#4 rd rs imm) = .ok (.slei rd rs imm) ∧
    (∃ t, exec (.slei rd rs imm) s = .next t ∧ WritesReg s rd (if (s.readReg rs).toInt ≤ imm.toInt then 1#32 else 0#32) t) ∧
    decode (wordI 0b0011#4 0b0101#4 rd rs imm) = .ok (.sleui rd rs imm) ∧
    (∃ t, exec (.sleui rd rs imm) s = .next t ∧ WritesReg s rd (if (s.readReg rs).toNat ≤ imm.toNat then 1#32 else 0#32) t) ∧
    decode (wordI 0b0011#4 0b0110#4 rd rs imm) = .ok (.sgei rd rs imm) ∧
    (∃ t, exec (.sgei rd rs imm) s = .next t ∧ WritesReg s rd (if (s.readReg rs).toInt ≥ imm.toInt then 1#32 else 0#32) t) ∧
    decode (wordI 0b0011#4 0b0111#4 rd rs imm) = .ok (.sgeui rd rs imm) ∧
    (∃ t, exec (.sgeui rd rs imm) s = .next t ∧ WritesReg s rd (if (s.readReg rs).toNat ≥ imm.toNat then 1#32 else 0#32) t) ∧
    decode (wordI 0b0011#4 0b1000#4 rd rs imm) = .ok (.seqi rd rs imm) ∧
    (∃ t, exec (.seqi rd rs imm) s = .next t ∧ WritesReg s rd (if (s.readReg rs).toInt = imm.toInt then 1#32 else 0#32) t) ∧
    decode (wordI 0b0011#4 0b1001#4 rd rs imm) = .ok (.sequi rd rs imm) ∧
    (∃ t, exec (.sequi rd rs imm) s = .next t ∧ WritesReg s rd (if (s.readReg rs).toNat = imm.toNat then 1#32 else 0#32) t) ∧
    decode (wordI 0b0011#4 0b1010#4 rd rs imm) = .ok (.snei rd rs imm) ∧
    (∃ t, exec (.snei rd rs imm) s = .next t ∧ WritesReg s rd (if (s.readReg rs).toInt ≠ imm.toInt then 1#32 else 0#32) t) ∧
    decode (wordI 0b0011#4 0b1011#4 rd rs imm) = .ok (.sneui rd rs imm) ∧
    (∃ t, exec (.sneui rd rs imm) s = .next t ∧ WritesReg s rd (if (s.readReg rs).toNat ≠ imm.toNat then 1#32 else 0#32) t)

/-- sgt and sge are slt and sle with the sources exchanged, signed and unsigned equality agree, equal registers give the
reflexive results. Laws (d), (e) and (f) of 42_test.md. -/
def Obligations.TestSymmetries : Prop :=
  ∀ (s : State) (rd rs rt : RegId),
    exec (.sgt rd rs rt) s = exec (.slt rd rt rs) s ∧ exec (.sge rd rs rt) s = exec (.sle rd rt rs) s ∧
    exec (.sgtu rd rs rt) s = exec (.sltu rd rt rs) s ∧ exec (.sgeu rd rs rt) s = exec (.sleu rd rt rs) s ∧
    exec (.seq rd rs rt) s = exec (.sequ rd rs rt) s ∧ exec (.sne rd rs rt) s = exec (.sneu rd rs rt) s ∧
    (∀ i ∈ [Instr.slt rd rs rs, .sltu rd rs rs, .sgt rd rs rs, .sgtu rd rs rs, .sne rd rs rs, .sneu rd rs rs],
      ∃ t, exec i s = .next t ∧ WritesReg s rd 0#32 t) ∧
    (∀ i ∈ [Instr.sle rd rs rs, .sleu rd rs rs, .sge rd rs rs, .sgeu rd rs rs, .seq rd rs rs, .sequ rd rs rs],
      ∃ t, exec i s = .next t ∧ WritesReg s rd 1#32 t)

/-- jr jumps to the low 20 bits of a register and changes nothing else. R181. -/
def Obligations.JumpToRegister : Prop :=
  ∀ (s : State) (rs : RegId),
    decode (wordJ 0b0101#4 0b0000#4 rs 0#20) = .ok (.jr rs) ∧
    ∃ t, exec (.jr rs) s = .next t ∧ OnlyPc s ((s.readReg rs).extractLsb' 0 20) t

/-- j jumps to its address and changes nothing else; a jump to itself is a step that changes nothing. The section of `j` in
43_branch.md and the end-of-run convention of 70_reset_and_hazards.md section 5 (decision D33). -/
def Obligations.JumpToAddress : Prop :=
  ∀ (s : State) (addr : Imm20),
    decode (wordJ 0b0100#4 0b0000#4 0b0000#4 addr) = .ok (.j addr) ∧
    (∃ t, exec (.j addr) s = .next t ∧ OnlyPc s addr t) ∧ exec (.j s.pc) s = .next s

/-- jal and jalr save the address of the next instruction in register 15 and jump. The sections of `jal` and `jalr` in
43_branch.md (decisions D3, D5; `jalr $ra` apart, D15). -/
def Obligations.JumpAndLink : Prop :=
  ∀ (s : State) (rs : RegId) (addr : Imm20),
    (∃ t, exec (.jal addr) s = .next t ∧ WritesRegGoing s 15#4 (zext20 (s.pc + 1#20)) addr t) ∧
    (rs ≠ 15#4 → ∃ t, exec (.jalr rs) s = .next t ∧
      WritesRegGoing s 15#4 (zext20 (s.pc + 1#20)) ((s.readReg rs).extractLsb' 0 20) t)

/-- jalr with Rs = 15 is refused by name: the spec leaves it without a meaning. Decision D15 of the spec and U4 of
93_implementation_defined.md (log 19). -/
def Obligations.JalrThroughTheLinkRegisterIsRefused : Prop :=
  ∀ s : State, exec (.jalr 15#4) s = .refused .linkTargetWithoutMeaning

/-- beqz and bnez go to pc + 1 + Offset modulo 2^20 or to pc + 1 and change nothing else. R184 and R185. The offset field has
20 bits, so adding its sign extension modulo 2^20 is adding the field. -/
def Obligations.BranchesOnZero : Prop :=
  ∀ (s : State) (rs : RegId) (off : Imm20),
    decode (wordJ 0b1010#4 0b0000#4 rs off) = .ok (.beqz rs off) ∧
    (∃ t, exec (.beqz rs off) s = .next t ∧
      OnlyPc s (if s.readReg rs = 0#32 then s.pc + 1#20 + off else s.pc + 1#20) t) ∧
    decode (wordJ 0b1011#4 0b0000#4 rs off) = .ok (.bnez rs off) ∧
    (∃ t, exec (.bnez rs off) s = .next t ∧
      OnlyPc s (if s.readReg rs = 0#32 then s.pc + 1#20 else s.pc + 1#20 + off) t)

/-- The memory address of lw and sw is base plus offset modulo 2^20. 20_memory.md section 2 and law (a) of
44_memory_instructions.md (decision D6). -/
def Obligations.EffectiveAddressWraps : Prop :=
  ∀ (base : Word) (off : Imm20), effectiveAddr base off = base.extractLsb' 0 20 + off

/-- lw in kernel mode from plain memory loads the word at the effective address. 44_memory_instructions.md lw (decisions D6,
D9, D30). -/
def Obligations.LoadWordInKernelMode : Prop :=
  ∀ (s : State) (rd rs : RegId) (off : Imm20), s.ku = .kernel →
    kindAt s.memMap (effectiveAddr (s.readReg rs) off) = .ram →
    ∃ t, exec (.lw rd rs off) s = .next t ∧ WritesReg s rd (Memory.word s.mem (effectiveAddr (s.readReg rs) off)) t

/-- sw in kernel mode to plain memory stores the register at the effective address and no other byte changes.
44_memory_instructions.md sw (decisions D6, D9). -/
def Obligations.StoreWordInKernelMode : Prop :=
  ∀ (s : State) (rd rs : RegId) (off : Imm20), s.ku = .kernel →
    kindAt s.memMap (effectiveAddr (s.readReg rs) off) = .ram →
    ∃ t, exec (.sw rd rs off) s = .next t ∧ StoresWord s (effectiveAddr (s.readReg rs) off) (s.readReg rd) t

/-- The model's choice (log 4): lw and fetch of a device take its free answer and are logged, sw hands the word to the device.
The device clauses of 20_memory.md section 2 (decision D9) as log 4 holds them, the fetch among them; the counting is log
20; what the trap entry of an illegal answer writes is the model's choice in part (logs 7, 11, 12, 13). -/
def Obligations.DeviceAccessesInKernelMode : Prop :=
  ∀ s : State, s.ku = .kernel →
    (∀ (rd rs : RegId) (off : Imm20), kindAt s.memMap (effectiveAddr (s.readReg rs) off) = .device →
      (∃ t, exec (.lw rd rs off) s = .next t ∧
        WritesReg (s.logDevice (.read (effectiveAddr (s.readReg rs) off))).drawn rd (Config.deviceAnswer s.draws (effectiveAddr (s.readReg rs) off)) t) ∧
      (∃ t, exec (.sw rd rs off) s = .next t ∧
        OnlyPc (s.logDevice (.write (effectiveAddr (s.readReg rs) off) (s.readReg rd))) (s.pc + 1#20) t)) ∧
    (s.deliverable = 0#8 → kindAt s.memMap s.pc = .device →
      s.fetch = .done (Config.deviceAnswer s.draws s.pc) (s.logDevice (.read s.pc)).drawn ∧
      match decode (Config.deviceAnswer s.draws s.pc) with
      | .ok i => step s = exec i ((s.logDevice (.read s.pc)).drawn.countedFor i)
      | .error _ => ∃ t, step s = .next t ∧ Raises (s.logDevice (.read s.pc)).drawn .illegalInstruction t)

/-- In kernel mode, an access at an address where nothing is stops the machine by name. The access is not admitted
(20_memory.md section 2, decision D9, U8; log 5). The same in user mode is a part of UserAccessesGoThroughUserAccess. -/
def Obligations.UnmappedAccessStops : Prop :=
  ∀ (s : State) (rd rs : RegId) (off : Imm20), s.ku = .kernel →
    (kindAt s.memMap (effectiveAddr (s.readReg rs) off) = .unmapped →
      exec (.lw rd rs off) s = .fault (.unmapped (effectiveAddr (s.readReg rs) off) .load) ∧
      exec (.sw rd rs off) s = .fault (.unmapped (effectiveAddr (s.readReg rs) off) .store)) ∧
    (s.deliverable = 0#8 → kindAt s.memMap s.pc = .unmapped → step s = .fault (.unmapped s.pc .fetch))

/-- In user mode lw, sw and fetch use what UserAccess answers; its fault takes the access violation (the model's choice, log
15). 20_memory.md sections 2 and 5 (decisions D9, D24, U8); the parameter is free (log 14), that its fault is taken as an
exception is the model's choice (log 15), the stop is log 5, and what trap entry writes is the model's choice in part
(logs 7, 11, 12, 13). -/
def Obligations.UserAccessesGoThroughUserAccess : Prop :=
  ∀ (s : State) (rd rs : RegId) (off : Imm20), s.ku = .user →
    (match Config.userAccess s.sprs s.mem (effectiveAddr (s.readReg rs) off) .load with
      | .physical p =>
          (∀ v u, s.memRead p = .done v u → ∃ t, exec (.lw rd rs off) s = .next t ∧ WritesReg u rd v t) ∧
          (kindAt s.memMap p = .unmapped → exec (.lw rd rs off) s = .fault (.unmapped p .load))
      | .violation => ∃ t, exec (.lw rd rs off) s = .next t ∧ Raises s .accessViolation t) ∧
    (match Config.userAccess s.sprs s.mem (effectiveAddr (s.readReg rs) off) .store with
      | .physical p =>
          (∀ u, s.memWrite p (s.readReg rd) = .done () u → ∃ t, exec (.sw rd rs off) s = .next t ∧ OnlyPc u (s.pc + 1#20) t) ∧
          (kindAt s.memMap p = .unmapped → exec (.sw rd rs off) s = .fault (.unmapped p .store))
      | .violation => ∃ t, exec (.sw rd rs off) s = .next t ∧ Raises s .accessViolation t) ∧
    (s.deliverable = 0#8 →
      match Config.userAccess s.sprs s.mem s.pc .fetch with
      | .physical p => s.fetch = s.memRead p ∧ (kindAt s.memMap p = .unmapped → step s = .fault (.unmapped p .fetch))
      | .violation => ∃ t, step s = .next t ∧ TrapTaken s (.exception .accessViolation) s.pc t)

/-- A load after a store gives the stored word at the same address and the old word at any other. 20_memory.md section 6
(decision D8). -/
def Obligations.LoadReturnsTheLastStore : Prop :=
  ∀ (s : State) (rd rs rd' rs' : RegId) (off off' : Imm20), s.ku = .kernel → kindAt s.memMap (effectiveAddr (s.readReg rs) off) = .ram →
    ∃ t, exec (.sw rd rs off) s = .next t ∧
      (kindAt s.memMap (effectiveAddr (t.readReg rs') off') = .ram →
        ∃ u, exec (.lw rd' rs' off') t = .next u ∧
          WritesReg t rd' (if effectiveAddr (t.readReg rs') off' = (effectiveAddr (s.readReg rs) off) then s.readReg rd
            else Memory.word s.mem (effectiveAddr (t.readReg rs') off')) u)

/-- A store to the next instruction's address changes the instruction executed next. 20_memory.md section 6 (decision D8):
self-modifying code. -/
def Obligations.StoreIsSeenByTheNextFetch : Prop :=
  ∀ (s : State) (rd rs : RegId) (off : Imm20), s.ku = .kernel → kindAt s.memMap (effectiveAddr (s.readReg rs) off) = .ram →
    effectiveAddr (s.readReg rs) off = s.pc + 1#20 →
    ∃ t, exec (.sw rd rs off) s = .next t ∧ t.fetch = .done (s.readReg rd) t

/-- movgs in kernel mode copies all 32 bits to the implemented special register it names. 45_special.md movgs and 10_state.md
section 4 (decision D16); which specifiers are implemented is the model's choice (log 6). -/
def Obligations.MoveToSpecialRegister : Prop :=
  ∀ (s : State) (rd rs : RegId), s.ku = .kernel → sprImplemented rd = true →
    ∃ t, exec (.movgs rd rs) s = .next t ∧ WritesSpr s rd (s.readReg rs) t

/-- movsg in kernel mode copies all 32 bits of the special register it names; a step that reads a counter lets it count first
(log 20). 45_special.md movsg and 10_state.md section 4 (decision D16); 60_exceptions.md section 7 for the counters. Which
specifiers are implemented and which of them count is the model's choice (logs 6 and 20), the control bits' places are log
7. -/
def Obligations.MoveFromSpecialRegister : Prop :=
  (∀ (s : State) (rd rs : RegId), s.ku = .kernel → sprImplemented rs = true →
      ∃ t, exec (.movsg rd rs) s = .next t ∧ WritesReg s rd (s.readSpr rs) t) ∧
    (∀ (s s0 s1 : State) (w : Word) (rd rs : RegId), s.sampleInterrupt = .notTaken s0 → s0.fetch = .done w s1 → s1.ku = .kernel →
      decode w = .ok (.movsg rd rs) → rs = 6#4 ∨ rs = 7#4 →
      ∃ t, step s = .next t ∧
        WritesReg (s1.writeSpr rs (Config.counterValue s1.draws rs (s1.readSpr rs))).drawn rd
          (Config.counterValue s1.draws rs (s1.readSpr rs)) t)

/-- The model's choice (log 7): writing $cctrl sets OIE, IE, OKU, KU from bits 0 to 3 and the interrupt mask from bits 11:4.
CtrlLayout of 10_state.md section 4 (decision D17), instantiated as log 7 says. -/
def Obligations.ControlRegisterWriteSetsTheControlBits : Prop :=
  ∀ (s : State) (rs : RegId), s.ku = .kernel →
    ∃ t, exec (.movgs 4#4 rs) s = .next t ∧ t.readSpr 4#4 = s.readReg rs ∧
      t.ie = (s.readReg rs).getLsbD 1 ∧ (t.ku = .kernel ↔ (s.readReg rs).getLsbD 3 = true) ∧
      t.oie = (s.readReg rs).getLsbD 0 ∧ (t.oku = .kernel ↔ (s.readReg rs).getLsbD 2 = true) ∧
      t.irqMask = (s.readReg rs).extractLsb' 4 8

/-- movgs, movsg and rfe in user mode take the privilege violation and do nothing else. Decision D23 of the spec; what trap
entry writes is the model's choice in part (logs 7, 11, 12, 13). -/
def Obligations.PrivilegedInstructionsTrapInUserMode : Prop :=
  ∀ (s : State) (rd rs : RegId), s.ku = .user →
    (∃ t, exec (.movgs rd rs) s = .next t ∧ Raises s .privilegeViolation t) ∧
    (∃ t, exec (.movsg rd rs) s = .next t ∧ Raises s .privilegeViolation t) ∧
    (∃ t, exec .rfe s = .next t ∧ Raises s .privilegeViolation t)

/-- movgs and movsg in kernel mode on a specifier that is not implemented are refused by name (log 6). 10_state.md section 4
(decision D16, U6); the implemented set is the model's choice (log 6). -/
def Obligations.UnimplementedSpecialRegisterIsRefused : Prop :=
  ∀ (s : State) (a b : RegId), s.ku = .kernel → sprImplemented a = false →
    exec (.movgs a b) s = .refused (.specialRegisterNotImplemented a) ∧
    exec (.movsg b a) s = .refused (.specialRegisterNotImplemented a)

/-- break raises Breakpoint and syscall raises SystemCall, by every execution, in either mode, returning to the next
instruction. 60_exceptions.md sections 1 and 4 and 45_special.md break and syscall (decisions D18, D19); what trap entry
writes is the model's choice in part (logs 7, 11, 12, 13). -/
def Obligations.BreakAndSyscallAlwaysRaise : Prop :=
  ∀ s : State,
    (∃ t, exec .brk s = .next t ∧ Raises s .breakpoint t) ∧ (∃ t, exec .syscall s = .next t ∧ Raises s .systemCall t)

/-- rfe in kernel mode restores IE and KU from the saved bits and jumps to $ear. 45_special.md rfe and 60_exceptions.md
section 5 (decision D22; ERS_SAVES_R13 off, log 13; the places of the bits, log 7). -/
def Obligations.ReturnFromException : Prop :=
  ∀ s : State, s.ku = .kernel → ∃ t, exec .rfe s = .next t ∧ ReturnsFromTrap s t

/-- Trap entry saves IE, KU and the return address, turns interrupts off, enters kernel mode and goes to the handler.
60_exceptions.md section 4 (decision D18); the places of the bits, HandlerAddress and RecordCause are the model's choice
(logs 7, 11, 12), ERS_SAVES_R13 is off (log 13). -/
def Obligations.TrapEntryEffect : Prop :=
  ∀ (s : State) (c : Config.Cause) (ret : Addr), TrapTaken s c ret (s.trapEntry c ret)

/-- Every exception and interrupt, from either mode, enters the same handler in kernel mode. R237. -/
def Obligations.OneHandlerInKernelModeForEveryCause : Prop :=
  ∀ (s : State) (c d : Config.Cause) (a b : Addr),
    (s.trapEntry c a).pc = (s.trapEntry d b).pc ∧ (s.trapEntry c a).ku = .kernel

/-- rfe right after trap entry restores mode, interrupt enable and pc, and every general register and byte of memory is as
before. 60_exceptions.md section 5 over section 4 (decisions D18, D22; ERS_SAVES_R13 off, log 13). -/
def Obligations.ReturnAfterTrapRestoresTheContext : Prop :=
  ∀ (s : State) (c : Config.Cause) (ret : Addr), ∃ t, exec .rfe (s.trapEntry c ret) = .next t ∧
    t.ie = s.ie ∧ t.ku = s.ku ∧ t.pc = ret ∧ RegsSame s t ∧ MemSame s t ∧ OutsideSame s t

/-- A trap inside a handler that has saved nothing overwrites the saved bits and the return address. 60_exceptions.md section
5 (nesting), derived there from trap entry. -/
def Obligations.SecondTrapLosesTheOuterContext : Prop :=
  ∀ (s : State) (c d : Config.Cause) (a b : Addr),
    ((s.trapEntry c a).trapEntry d b).oie = false ∧ ((s.trapEntry c a).trapEntry d b).oku = .kernel ∧
    ((s.trapEntry c a).trapEntry d b).readSpr sprEar = zext20 b

/-- A step with no interrupt taken runs the instruction the fetched word decodes to. The step function of
70_reset_and_hazards.md section 6; the counting of the registers of 60_exceptions.md section 7 is the model's choice (log
20). -/
def Obligations.StepRunsDecodedInstruction : Prop :=
  (∀ (s s0 s1 : State) (w : Word) (i : Instr),
      s.sampleInterrupt = .notTaken s0 → s0.fetch = .done w s1 → decode w = .ok i → step s = exec i (s1.countedFor i)) ∧
    (∀ (s : State) (i : Instr), s.deliverable = 0#8 → s.ku = .kernel → kindAt s.memMap s.pc = .ram →
      decode (Memory.word s.mem s.pc) = .ok i → step s = exec i (s.countedFor i)) ∧
    (∀ (s : State) (i : Instr), (s.ku = .user ∨ ∀ rd : RegId, i ≠ .movsg rd 6#4 ∧ i ≠ .movsg rd 7#4) → s.countedFor i = s) ∧
    (∀ (s : State) (rd rs : RegId), s.ku = .kernel → rs = 6#4 ∨ rs = 7#4 →
      s.countedFor (.movsg rd rs) = (s.writeSpr rs (Config.counterValue s.draws rs (s.readSpr rs))).drawn)

/-- A fetched word that is no instruction takes the illegal-instruction exception. Decision D10 of the spec; what trap entry
writes is the model's choice in part (logs 7, 11, 12, 13). -/
def Obligations.IllegalWordTraps : Prop :=
  ∀ (s s0 s1 : State) (w : Word) (e : DecodeError),
    s.sampleInterrupt = .notTaken s0 → s0.fetch = .done w s1 → decode w = .error e →
    ∃ t, step s = .next t ∧ Raises s1 .illegalInstruction t

/-- An interrupt is taken only between instructions, never with IE = 0, with the pc as return address; both outcomes are
allowed (log 17). 60_exceptions.md section 2 (decision D25); the free choice is log 17, the lines and the mask are log 16;
what trap entry writes is the model's choice in part (logs 7, 11, 12, 13). -/
def Obligations.InterruptsBetweenInstructions : Prop :=
  ∀ s : State,
    (s.ie = false ∨ s.pending &&& s.irqMask = 0#8 → step s = instructionStep s) ∧
    (s.ie = true → s.pending &&& s.irqMask ≠ 0#8 →
      if Config.takesInterrupt s.draws then
        ∃ t, step s = .next t ∧ TrapTaken s.drawn (.interrupt (s.pending &&& s.irqMask)) s.pc t
      else step s = instructionStep s.drawn)

/-- A step changes no byte of memory except by sw, and then only the stored word's four. 20_memory.md section 6: memory
changes only by `sw` (decision D32). -/
def Obligations.OnlyAStoreChangesMemory : Prop :=
  ∀ s t : State, step s = .next t →
    MemSame s t ∨
    ∃ (s0 s1 : State) (rd rs : RegId) (off : Imm20) (p : Addr),
      s.sampleInterrupt = .notTaken s0 ∧ s0.fetch = .done (encode (.sw rd rs off)) s1 ∧
      s1.translate (effectiveAddr (s1.readReg rs) off) .store = .physical p ∧
      Memory.word t.mem p = s1.readReg rd ∧
      ∀ k : Nat, k < wordKey p ∨ wordKey p + 3 < k → Memory.byte t.mem k = Memory.byte s.mem k

/-- A step in user mode leaves every special register as it is, or is a trap entry into kernel mode. 60_exceptions.md section
6: user mode is left by trap entry and by nothing else (decisions D19, D23); what trap entry writes is the model's choice
in part (logs 7, 11, 12, 13), the return address of a fetch violation is log 15, the lines are logs 16 and 17. -/
def Obligations.UserModeChangesSpecialRegistersOnlyByTrap : Prop :=
  ∀ s t : State, s.ku = .user → step s = .next t →
    SprsSame s t ∨
    (t.ku = .kernel ∧ t.ie = false ∧ t.oku = .user ∧ t.oie = s.ie ∧ t.pc = s.handlerAddress ∧
      (∃ (c : Config.Cause) (ret : Addr), t.readSpr sprEar = zext20 ret ∧ t.readSpr sprEstat = causeWord c ∧
        (ret = s.pc + 1#20 ∧ (∃ e, c = .exception e) ∨ ret = s.pc ∧ c = .exception .accessViolation ∨
          ret = s.pc ∧ c = .interrupt s.deliverable ∧ s.deliverable ≠ 0#8)) ∧
      (∀ n, OtherControlBit n → (t.readSpr sprCtrl).getLsbD n = (s.readSpr sprCtrl).getLsbD n) ∧
      (∀ i, i ≠ sprCtrl → i ≠ sprEar → i ≠ sprEstat → t.readSpr i = s.readSpr i) ∧ RegsSame s t ∧ MemSame s t)

/-- A step from kernel mode to user mode is an rfe with OKU = USER or a write of the control register. 60_exceptions.md
section 6 (decision D23; the control register is special register 4, log 7). -/
def Obligations.UserModeIsEnteredOnlyByRfeOrControlWrite : Prop :=
  ∀ s t : State, s.ku = .kernel → step s = .next t → t.ku = .user →
    ∃ s0 s1 : State, s.sampleInterrupt = .notTaken s0 ∧
      ((s0.fetch = .done (encode .rfe) s1 ∧ s.oku = .user) ∨
        ∃ rs : RegId, s0.fetch = .done (encode (.movgs sprCtrl rs)) s1)

/-- With every address mapped, a step always gives a next state unless the fetched instruction has no meaning. The instruction
set has no halt (70_reset_and_hazards.md section 5); the stops are those listed in section 6 there (logs 5, 6, 19). -/
def Obligations.MachineNeverStopsWhereMemoryIsMapped : Prop :=
  ∀ s : State, MapTotal s → FetchesWellFormed s → FetchesWellFormed s.drawn → ∃ t, step s = .next t

/-- exec refuses no well-formed instruction, and every ill-formed one in kernel mode. The points without a meaning of
70_reset_and_hazards.md section 6 (logs 6 and 19). -/
def Obligations.WellFormedInstructionsAreNeverRefused : Prop :=
  ∀ (i : Instr) (s : State),
    (WellFormed i → ∀ r, exec i s ≠ .refused r) ∧ (¬ WellFormed i → s.ku = .kernel → ∃ r, exec i s = .refused r)

/-- In kernel mode the instructions safe from reset change no special register, so they raise nothing. The list of
70_reset_and_hazards.md section 2 (decision D28), movgs apart, which writes the register it names. -/
def Obligations.ExceptionFreeInstructionsKeepSpecialRegisters : Prop :=
  ∀ (i : Instr) (s t : State), s.ku = .kernel → neverTrapsInKernel i = true → exec i s = .next t → SprsSame s t

/-- The model's choice (logs 3, 4, 16): no step changes the memory map or the pending lines, and device accesses are only
added. The memory map is a platform parameter (log 3), the pending lines belong to the environment (log 16), the device
log only records (log 4). -/
def Obligations.StepKeepsTheSurroundings : Prop :=
  ∀ s t : State, step s = .next t →
    t.memMap = s.memMap ∧ t.pending = s.pending ∧ ∃ l, t.deviceLog = s.deviceLog ++ l
end

