-- ==== Sys2Proof/Laws/Encoding.lean ====
section
/-! SUPPORT. The fields of a word laid out in each of the three formats, and a word as its fields. -/

namespace Sys2Proof

@[simp] theorem fieldOp_wordR (op fn : BitVec 4) (rd rs rt : RegId) : fieldOp (wordR op fn rd rs rt) = op := by
  apply BitVec.eq_of_getLsbD_eq
  intro i hi
  simp only [fieldOp, wordR, BitVec.getLsbD_extractLsb', BitVec.getLsbD_append]
  split_ifs <;> first
    | omega
    | (rw [decide_eq_true (by omega), Bool.true_and]; congr 1; omega)

@[simp] theorem fieldRd_wordR (op fn : BitVec 4) (rd rs rt : RegId) : fieldRd (wordR op fn rd rs rt) = rd := by
  apply BitVec.eq_of_getLsbD_eq
  intro i hi
  simp only [fieldRd, wordR, BitVec.getLsbD_extractLsb', BitVec.getLsbD_append]
  split_ifs <;> first
    | omega
    | (rw [decide_eq_true (by omega), Bool.true_and]; congr 1; omega)

@[simp] theorem fieldRs_wordR (op fn : BitVec 4) (rd rs rt : RegId) : fieldRs (wordR op fn rd rs rt) = rs := by
  apply BitVec.eq_of_getLsbD_eq
  intro i hi
  simp only [fieldRs, wordR, BitVec.getLsbD_extractLsb', BitVec.getLsbD_append]
  split_ifs <;> first
    | omega
    | (rw [decide_eq_true (by omega), Bool.true_and]; congr 1; omega)

@[simp] theorem fieldFunc_wordR (op fn : BitVec 4) (rd rs rt : RegId) : fieldFunc (wordR op fn rd rs rt) = fn := by
  apply BitVec.eq_of_getLsbD_eq
  intro i hi
  simp only [fieldFunc, wordR, BitVec.getLsbD_extractLsb', BitVec.getLsbD_append]
  split_ifs <;> first
    | omega
    | (rw [decide_eq_true (by omega), Bool.true_and]; congr 1; omega)

@[simp] theorem fieldZero_wordR (op fn : BitVec 4) (rd rs rt : RegId) : fieldZero (wordR op fn rd rs rt) = 0#12 := by
  apply BitVec.eq_of_getLsbD_eq
  intro i hi
  simp only [fieldZero, wordR, BitVec.getLsbD_extractLsb', BitVec.getLsbD_append, BitVec.getLsbD_zero]
  split_ifs <;> first
    | omega
    | simp

@[simp] theorem fieldRt_wordR (op fn : BitVec 4) (rd rs rt : RegId) : fieldRt (wordR op fn rd rs rt) = rt := by
  apply BitVec.eq_of_getLsbD_eq
  intro i hi
  simp only [fieldRt, wordR, BitVec.getLsbD_extractLsb', BitVec.getLsbD_append]
  split_ifs <;> first
    | omega
    | (rw [decide_eq_true (by omega), Bool.true_and]; congr 1; omega)

@[simp] theorem fieldOp_wordI (op fn : BitVec 4) (rd rs : RegId) (imm : Imm16) : fieldOp (wordI op fn rd rs imm) = op := by
  apply BitVec.eq_of_getLsbD_eq
  intro i hi
  simp only [fieldOp, wordI, BitVec.getLsbD_extractLsb', BitVec.getLsbD_append]
  split_ifs <;> first
    | omega
    | (rw [decide_eq_true (by omega), Bool.true_and]; congr 1; omega)

@[simp] theorem fieldRd_wordI (op fn : BitVec 4) (rd rs : RegId) (imm : Imm16) : fieldRd (wordI op fn rd rs imm) = rd := by
  apply BitVec.eq_of_getLsbD_eq
  intro i hi
  simp only [fieldRd, wordI, BitVec.getLsbD_extractLsb', BitVec.getLsbD_append]
  split_ifs <;> first
    | omega
    | (rw [decide_eq_true (by omega), Bool.true_and]; congr 1; omega)

@[simp] theorem fieldRs_wordI (op fn : BitVec 4) (rd rs : RegId) (imm : Imm16) : fieldRs (wordI op fn rd rs imm) = rs := by
  apply BitVec.eq_of_getLsbD_eq
  intro i hi
  simp only [fieldRs, wordI, BitVec.getLsbD_extractLsb', BitVec.getLsbD_append]
  split_ifs <;> first
    | omega
    | (rw [decide_eq_true (by omega), Bool.true_and]; congr 1; omega)

@[simp] theorem fieldFunc_wordI (op fn : BitVec 4) (rd rs : RegId) (imm : Imm16) : fieldFunc (wordI op fn rd rs imm) = fn := by
  apply BitVec.eq_of_getLsbD_eq
  intro i hi
  simp only [fieldFunc, wordI, BitVec.getLsbD_extractLsb', BitVec.getLsbD_append]
  split_ifs <;> first
    | omega
    | (rw [decide_eq_true (by omega), Bool.true_and]; congr 1; omega)

@[simp] theorem fieldImm_wordI (op fn : BitVec 4) (rd rs : RegId) (imm : Imm16) : fieldImm (wordI op fn rd rs imm) = imm := by
  apply BitVec.eq_of_getLsbD_eq
  intro i hi
  simp only [fieldImm, wordI, BitVec.getLsbD_extractLsb', BitVec.getLsbD_append]
  split_ifs <;> first
    | omega
    | (rw [decide_eq_true (by omega), Bool.true_and]; congr 1; omega)

@[simp] theorem fieldOp_wordJ (op : BitVec 4) (rd rs : RegId) (addr : Imm20) : fieldOp (wordJ op rd rs addr) = op := by
  apply BitVec.eq_of_getLsbD_eq
  intro i hi
  simp only [fieldOp, wordJ, BitVec.getLsbD_extractLsb', BitVec.getLsbD_append]
  split_ifs <;> first
    | omega
    | (rw [decide_eq_true (by omega), Bool.true_and]; congr 1; omega)

@[simp] theorem fieldRd_wordJ (op : BitVec 4) (rd rs : RegId) (addr : Imm20) : fieldRd (wordJ op rd rs addr) = rd := by
  apply BitVec.eq_of_getLsbD_eq
  intro i hi
  simp only [fieldRd, wordJ, BitVec.getLsbD_extractLsb', BitVec.getLsbD_append]
  split_ifs <;> first
    | omega
    | (rw [decide_eq_true (by omega), Bool.true_and]; congr 1; omega)

@[simp] theorem fieldRs_wordJ (op : BitVec 4) (rd rs : RegId) (addr : Imm20) : fieldRs (wordJ op rd rs addr) = rs := by
  apply BitVec.eq_of_getLsbD_eq
  intro i hi
  simp only [fieldRs, wordJ, BitVec.getLsbD_extractLsb', BitVec.getLsbD_append]
  split_ifs <;> first
    | omega
    | (rw [decide_eq_true (by omega), Bool.true_and]; congr 1; omega)

@[simp] theorem fieldAddr_wordJ (op : BitVec 4) (rd rs : RegId) (addr : Imm20) : fieldAddr (wordJ op rd rs addr) = addr := by
  apply BitVec.eq_of_getLsbD_eq
  intro i hi
  simp only [fieldAddr, wordJ, BitVec.getLsbD_extractLsb', BitVec.getLsbD_append]
  split_ifs <;> first
    | omega
    | (rw [decide_eq_true (by omega), Bool.true_and]; congr 1; omega)

/-- The low 16 bits of an R-type word are its zero field and Rt. -/
@[simp] theorem fieldImm_wordR (op fn : BitVec 4) (rd rs rt : RegId) : fieldImm (wordR op fn rd rs rt) = 0#12 ++ rt := by
  apply BitVec.eq_of_getLsbD_eq
  intro i hi
  simp only [fieldImm, wordR, BitVec.getLsbD_extractLsb', BitVec.getLsbD_append, Nat.zero_add]
  split_ifs <;> first
    | omega
    | simp_all

/-- A word is its I-type fields. -/
theorem wordI_fields (w : Word) : wordI (fieldOp w) (fieldFunc w) (fieldRd w) (fieldRs w) (fieldImm w) = w := by
  apply BitVec.eq_of_getLsbD_eq
  intro i hi
  simp only [wordI, fieldOp, fieldFunc, fieldRd, fieldRs, fieldImm, BitVec.getLsbD_extractLsb', BitVec.getLsbD_append]
  split_ifs <;>
    (rw [decide_eq_true (by omega), Bool.true_and]; congr 1; omega)

/-- A word is its J-type fields. -/
theorem wordJ_fields (w : Word) : wordJ (fieldOp w) (fieldRd w) (fieldRs w) (fieldAddr w) = w := by
  apply BitVec.eq_of_getLsbD_eq
  intro i hi
  simp only [wordJ, fieldOp, fieldRd, fieldRs, fieldAddr, BitVec.getLsbD_extractLsb', BitVec.getLsbD_append]
  split_ifs <;>
    (rw [decide_eq_true (by omega), Bool.true_and]; congr 1; omega)

/-- A word whose zero field is zero is its R-type fields. -/
theorem wordR_fields (w : Word) (h : fieldZero w = 0#12) :
    wordR (fieldOp w) (fieldFunc w) (fieldRd w) (fieldRs w) (fieldRt w) = w := by
  rw [wordR, ← h]
  apply BitVec.eq_of_getLsbD_eq
  intro i hi
  simp only [fieldOp, fieldFunc, fieldRd, fieldRs, fieldRt, fieldZero, BitVec.getLsbD_extractLsb', BitVec.getLsbD_append]
  split_ifs <;>
    (rw [decide_eq_true (by omega), Bool.true_and]; congr 1; omega)

end Sys2Proof
end

