-- ==== Sys2Proof/Laws/Memory.lean ====
section
/-! SUPPORT. Memory: a read after a write gives the value written, a write leaves every other address alone, and every
operation keeps the canonical form. -/

namespace Sys2Proof.Machine

theorem Memory.cell?_setByte (m : Memory) (a k : Nat) (b : Byte) :
    Memory.cell? (Memory.setByte m a b) k = if a = k then some b else Memory.cell? m k := by
  induction m with
  | nil => simp [Memory.setByte, Memory.cell?]
  | cons c m ih =>
    obtain ⟨j, d⟩ := c
    simp only [Memory.setByte]
    split_ifs with h1 h2 h3 h4 h5 <;> simp_all [Memory.cell?]; omega

/-- Reading one cell after a write of one cell. -/
theorem Memory.byte_setByte (m : Memory) (a k : Nat) (b : Byte) :
    Memory.byte (Memory.setByte m a b) k = if a = k then b else Memory.byte m k := by
  simp only [Memory.byte, Memory.cell?_setByte]
  split_ifs <;> rfl

/-- A word store leaves every cell outside the word's four alone. -/
theorem Memory.byte_setWord_other (m : Memory) (a : Addr) (v : Word) (k : Nat)
    (h : k < wordKey a ∨ wordKey a + 3 < k) : Memory.byte (Memory.setWord m a v) k = Memory.byte m k := by
  simp only [Memory.setWord, Memory.byte_setByte]
  rw [if_neg (by omega), if_neg (by omega), if_neg (by omega), if_neg (by omega)]

theorem word_of_bytes (v : Word) :
    v.extractLsb' 24 8 ++ v.extractLsb' 16 8 ++ v.extractLsb' 8 8 ++ v.extractLsb' 0 8 = v := by
  apply BitVec.eq_of_getLsbD_eq
  intro i hi
  simp only [BitVec.getLsbD_append, BitVec.getLsbD_extractLsb']
  split_ifs <;>
    (rw [decide_eq_true (by omega), Bool.true_and]; congr 1; omega)

/-- Reading a word after storing it gives it back (R45, R50). -/
@[simp] theorem Memory.word_setWord_same (m : Memory) (a : Addr) (v : Word) :
    Memory.word (Memory.setWord m a v) a = v := by
  simp only [Memory.word, Memory.setWord, Memory.byte_setByte]
  simp [word_of_bytes]

theorem wordKey_ne {a b : Addr} (h : a ≠ b) : wordKey a + 3 < wordKey b ∨ wordKey b + 3 < wordKey a := by
  have : a.toNat ≠ b.toNat := fun e => h (BitVec.eq_of_toNat_eq e)
  simp only [wordKey]
  omega

/-- A word store leaves every other word alone (R50). -/
theorem Memory.word_setWord_other (m : Memory) (a b : Addr) (v : Word) (h : b ≠ a) :
    Memory.word (Memory.setWord m a v) b = Memory.word m b := by
  have := wordKey_ne h
  simp only [Memory.word]
  rw [byte_setWord_other, byte_setWord_other, byte_setWord_other, byte_setWord_other] <;> omega

theorem Memory.rising_cons_iff (c : Host.Cell) (m : Memory) :
    Memory.rising (c :: m) = true ↔ (∀ d ∈ m.head?, c.1 < d.1) ∧ Memory.rising m = true := by
  cases m with
  | nil => simp [Memory.rising]
  | cons d m => simp [Memory.rising]

theorem Memory.head?_setByte (m : Memory) (a : Nat) (b : Byte) (c : Host.Cell)
    (h : c ∈ (Memory.setByte m a b).head?) : c.1 = a ∨ ∃ d ∈ m.head?, c.1 = d.1 := by
  cases m with
  | nil => left; simpa [Memory.setByte, eq_comm, Prod.ext_iff] using congrArg Prod.fst (Option.some.inj h).symm
  | cons d m =>
    obtain ⟨k, e⟩ := d
    simp only [Memory.setByte] at h
    split_ifs at h <;> simp_all <;> subst h <;> simp_all

theorem Memory.rising_setByte (m : Memory) (a : Nat) (b : Byte) (h : Memory.rising m = true) :
    Memory.rising (Memory.setByte m a b) = true := by
  induction m with
  | nil => rfl
  | cons c m ih =>
    obtain ⟨k, e⟩ := c
    rw [rising_cons_iff] at h
    simp only [Memory.setByte]
    split_ifs with h1 h2
    · rw [rising_cons_iff, rising_cons_iff]; exact ⟨by simpa using h1, h⟩
    · subst h2; rw [rising_cons_iff]; exact h
    · rw [rising_cons_iff]
      refine ⟨fun d hd => ?_, ih h.2⟩
      rcases head?_setByte m a b d hd with h3 | ⟨d', hd', h3⟩
      · simp only [h3]; omega
      · rw [h3]; exact h.1 d' hd'

theorem Memory.mem_setByte (m : Memory) (a : Nat) (b : Byte) (c : Host.Cell) (h : c ∈ Memory.setByte m a b) :
    c = (a, b) ∨ c ∈ m := by
  induction m with
  | nil => simpa [Memory.setByte] using h
  | cons d m ih =>
    obtain ⟨k, e⟩ := d
    simp only [Memory.setByte] at h
    split_ifs at h
    · simpa using h
    · rcases List.mem_cons.1 h with h | h
      · exact .inl h
      · exact .inr (List.mem_cons_of_mem _ h)
    · rcases List.mem_cons.1 h with h | h
      · exact .inr (h ▸ List.mem_cons_self)
      · exact (ih h).imp_right (List.mem_cons_of_mem _)

theorem Memory.inSpace_setByte (m : Memory) (a : Nat) (b : Byte) (ha : a < 4194304) (h : Memory.inSpace m = true) :
    Memory.inSpace (Memory.setByte m a b) = true := by
  simp only [Memory.inSpace, List.all_eq_true, decide_eq_true_eq] at *
  intro c hc
  rcases mem_setByte m a b c hc with rfl | h'
  · exact ha
  · exact h c h'

/-- A byte write inside the address space keeps the canonical form. -/
theorem Memory.wf_setByte (m : Memory) (a : Nat) (b : Byte) (ha : a < 4194304) (h : Memory.wf m = true) :
    Memory.wf (Memory.setByte m a b) = true := by
  simp only [Memory.wf, Bool.and_eq_true] at *
  exact ⟨rising_setByte m a b h.1, inSpace_setByte m a b ha h.2⟩

/-- A word store keeps the canonical form. -/
theorem Memory.wf_setWord (m : Memory) (a : Addr) (v : Word) (h : Memory.wf m = true) :
    Memory.wf (Memory.setWord m a v) = true := by
  have ha : a.toNat < 1048576 := a.isLt
  have hk : wordKey a + 3 < 4194304 := by simp only [wordKey]; omega
  unfold Memory.setWord
  iterate 4 refine wf_setByte _ _ _ (by omega) ?_
  exact h

end Sys2Proof.Machine
end

