-- ==== Sys2Proof/Laws/State.lean ====
section
/-! SUPPORT. One lemma per field per primitive update of the state, true by rfl, and what the register accessors read after an
update of another field. -/

namespace Sys2Proof.Machine

/-! ### `State.setPc` -/

@[simp] theorem State.setPc_regs (s : State) (a : Addr) : (s.setPc a).regs = s.regs := rfl
@[simp] theorem State.setPc_pc (s : State) (a : Addr) : (s.setPc a).pc = a := rfl
@[simp] theorem State.setPc_sprs (s : State) (a : Addr) : (s.setPc a).sprs = s.sprs := rfl
@[simp] theorem State.setPc_mem (s : State) (a : Addr) : (s.setPc a).mem = s.mem := rfl
@[simp] theorem State.setPc_pending (s : State) (a : Addr) : (s.setPc a).pending = s.pending := rfl
@[simp] theorem State.setPc_memMap (s : State) (a : Addr) : (s.setPc a).memMap = s.memMap := rfl
@[simp] theorem State.setPc_deviceLog (s : State) (a : Addr) : (s.setPc a).deviceLog = s.deviceLog := rfl
@[simp] theorem State.setPc_draws (s : State) (a : Addr) : (s.setPc a).draws = s.draws := rfl
@[simp] theorem State.setPc_readReg (s : State) (a : Addr) (q : RegId) : (s.setPc a).readReg q = s.readReg q := rfl
@[simp] theorem State.setPc_readSpr (s : State) (a : Addr) (j : RegId) : (s.setPc a).readSpr j = s.readSpr j := rfl
@[simp] theorem State.setPc_ie (s : State) (a : Addr) : (s.setPc a).ie = s.ie := rfl
@[simp] theorem State.setPc_ku (s : State) (a : Addr) : (s.setPc a).ku = s.ku := rfl

/-! ### `State.setMem` -/

@[simp] theorem State.setMem_regs (s : State) (m : Memory) : (s.setMem m).regs = s.regs := rfl
@[simp] theorem State.setMem_pc (s : State) (m : Memory) : (s.setMem m).pc = s.pc := rfl
@[simp] theorem State.setMem_sprs (s : State) (m : Memory) : (s.setMem m).sprs = s.sprs := rfl
@[simp] theorem State.setMem_mem (s : State) (m : Memory) : (s.setMem m).mem = m := rfl
@[simp] theorem State.setMem_pending (s : State) (m : Memory) : (s.setMem m).pending = s.pending := rfl
@[simp] theorem State.setMem_memMap (s : State) (m : Memory) : (s.setMem m).memMap = s.memMap := rfl
@[simp] theorem State.setMem_deviceLog (s : State) (m : Memory) : (s.setMem m).deviceLog = s.deviceLog := rfl
@[simp] theorem State.setMem_draws (s : State) (m : Memory) : (s.setMem m).draws = s.draws := rfl
@[simp] theorem State.setMem_readReg (s : State) (m : Memory) (q : RegId) : (s.setMem m).readReg q = s.readReg q := rfl
@[simp] theorem State.setMem_readSpr (s : State) (m : Memory) (j : RegId) : (s.setMem m).readSpr j = s.readSpr j := rfl
@[simp] theorem State.setMem_ie (s : State) (m : Memory) : (s.setMem m).ie = s.ie := rfl
@[simp] theorem State.setMem_ku (s : State) (m : Memory) : (s.setMem m).ku = s.ku := rfl

/-! ### `State.advance` -/

@[simp] theorem State.advance_regs (s : State) : (s.advance).regs = s.regs := rfl
@[simp] theorem State.advance_pc (s : State) : (s.advance).pc = nextAddr s.pc := rfl
@[simp] theorem State.advance_sprs (s : State) : (s.advance).sprs = s.sprs := rfl
@[simp] theorem State.advance_mem (s : State) : (s.advance).mem = s.mem := rfl
@[simp] theorem State.advance_pending (s : State) : (s.advance).pending = s.pending := rfl
@[simp] theorem State.advance_memMap (s : State) : (s.advance).memMap = s.memMap := rfl
@[simp] theorem State.advance_deviceLog (s : State) : (s.advance).deviceLog = s.deviceLog := rfl
@[simp] theorem State.advance_draws (s : State) : (s.advance).draws = s.draws := rfl
@[simp] theorem State.advance_readReg (s : State) (q : RegId) : (s.advance).readReg q = s.readReg q := rfl
@[simp] theorem State.advance_readSpr (s : State) (j : RegId) : (s.advance).readSpr j = s.readSpr j := rfl
@[simp] theorem State.advance_ie (s : State) : (s.advance).ie = s.ie := rfl
@[simp] theorem State.advance_ku (s : State) : (s.advance).ku = s.ku := rfl

/-! ### `State.writeReg` -/

@[simp] theorem State.writeReg_pc (s : State) (r : RegId) (v : Word) : (s.writeReg r v).pc = s.pc := rfl
@[simp] theorem State.writeReg_sprs (s : State) (r : RegId) (v : Word) : (s.writeReg r v).sprs = s.sprs := rfl
@[simp] theorem State.writeReg_mem (s : State) (r : RegId) (v : Word) : (s.writeReg r v).mem = s.mem := rfl
@[simp] theorem State.writeReg_pending (s : State) (r : RegId) (v : Word) : (s.writeReg r v).pending = s.pending := rfl
@[simp] theorem State.writeReg_memMap (s : State) (r : RegId) (v : Word) : (s.writeReg r v).memMap = s.memMap := rfl
@[simp] theorem State.writeReg_deviceLog (s : State) (r : RegId) (v : Word) : (s.writeReg r v).deviceLog = s.deviceLog := rfl
@[simp] theorem State.writeReg_draws (s : State) (r : RegId) (v : Word) : (s.writeReg r v).draws = s.draws := rfl
@[simp] theorem State.writeReg_readSpr (s : State) (r : RegId) (v : Word) (j : RegId) : (s.writeReg r v).readSpr j = s.readSpr j := rfl
@[simp] theorem State.writeReg_ie (s : State) (r : RegId) (v : Word) : (s.writeReg r v).ie = s.ie := rfl
@[simp] theorem State.writeReg_ku (s : State) (r : RegId) (v : Word) : (s.writeReg r v).ku = s.ku := rfl

/-! ### `State.writeSpr` -/

@[simp] theorem State.writeSpr_regs (s : State) (i : RegId) (v : Word) : (s.writeSpr i v).regs = s.regs := rfl
@[simp] theorem State.writeSpr_pc (s : State) (i : RegId) (v : Word) : (s.writeSpr i v).pc = s.pc := rfl
@[simp] theorem State.writeSpr_mem (s : State) (i : RegId) (v : Word) : (s.writeSpr i v).mem = s.mem := rfl
@[simp] theorem State.writeSpr_pending (s : State) (i : RegId) (v : Word) : (s.writeSpr i v).pending = s.pending := rfl
@[simp] theorem State.writeSpr_memMap (s : State) (i : RegId) (v : Word) : (s.writeSpr i v).memMap = s.memMap := rfl
@[simp] theorem State.writeSpr_deviceLog (s : State) (i : RegId) (v : Word) : (s.writeSpr i v).deviceLog = s.deviceLog := rfl
@[simp] theorem State.writeSpr_draws (s : State) (i : RegId) (v : Word) : (s.writeSpr i v).draws = s.draws := rfl
@[simp] theorem State.writeSpr_readReg (s : State) (i : RegId) (v : Word) (q : RegId) : (s.writeSpr i v).readReg q = s.readReg q := rfl

/-! ### `State.drawn` -/

@[simp] theorem State.drawn_regs (s : State) : (s.drawn).regs = s.regs := rfl
@[simp] theorem State.drawn_pc (s : State) : (s.drawn).pc = s.pc := rfl
@[simp] theorem State.drawn_sprs (s : State) : (s.drawn).sprs = s.sprs := rfl
@[simp] theorem State.drawn_mem (s : State) : (s.drawn).mem = s.mem := rfl
@[simp] theorem State.drawn_pending (s : State) : (s.drawn).pending = s.pending := rfl
@[simp] theorem State.drawn_memMap (s : State) : (s.drawn).memMap = s.memMap := rfl
@[simp] theorem State.drawn_deviceLog (s : State) : (s.drawn).deviceLog = s.deviceLog := rfl
@[simp] theorem State.drawn_draws (s : State) : (s.drawn).draws = s.draws + 1 := rfl
@[simp] theorem State.drawn_readReg (s : State) (q : RegId) : (s.drawn).readReg q = s.readReg q := rfl
@[simp] theorem State.drawn_readSpr (s : State) (j : RegId) : (s.drawn).readSpr j = s.readSpr j := rfl
@[simp] theorem State.drawn_ie (s : State) : (s.drawn).ie = s.ie := rfl
@[simp] theorem State.drawn_ku (s : State) : (s.drawn).ku = s.ku := rfl

/-! ### `State.logDevice` -/

@[simp] theorem State.logDevice_regs (s : State) (e : DeviceAccess) : (s.logDevice e).regs = s.regs := rfl
@[simp] theorem State.logDevice_pc (s : State) (e : DeviceAccess) : (s.logDevice e).pc = s.pc := rfl
@[simp] theorem State.logDevice_sprs (s : State) (e : DeviceAccess) : (s.logDevice e).sprs = s.sprs := rfl
@[simp] theorem State.logDevice_mem (s : State) (e : DeviceAccess) : (s.logDevice e).mem = s.mem := rfl
@[simp] theorem State.logDevice_pending (s : State) (e : DeviceAccess) : (s.logDevice e).pending = s.pending := rfl
@[simp] theorem State.logDevice_memMap (s : State) (e : DeviceAccess) : (s.logDevice e).memMap = s.memMap := rfl
@[simp] theorem State.logDevice_deviceLog (s : State) (e : DeviceAccess) : (s.logDevice e).deviceLog = s.deviceLog ++ [e] := rfl
@[simp] theorem State.logDevice_draws (s : State) (e : DeviceAccess) : (s.logDevice e).draws = s.draws := rfl
@[simp] theorem State.logDevice_readReg (s : State) (e : DeviceAccess) (q : RegId) : (s.logDevice e).readReg q = s.readReg q := rfl
@[simp] theorem State.logDevice_readSpr (s : State) (e : DeviceAccess) (j : RegId) : (s.logDevice e).readSpr j = s.readSpr j := rfl
@[simp] theorem State.logDevice_ie (s : State) (e : DeviceAccess) : (s.logDevice e).ie = s.ie := rfl
@[simp] theorem State.logDevice_ku (s : State) (e : DeviceAccess) : (s.logDevice e).ku = s.ku := rfl

end Sys2Proof.Machine
end

