-- ==== Sys2Proof/Laws/Ops.lean ====
section
/-! SUPPORT. For each shared operation, once, everything it can do. -/

namespace Sys2Proof.Machine

/-! ### Registers -/

@[simp] theorem readReg_zero (s : State) : s.readReg 0#4 = 0#32 := rfl

/-- Reading a general register after a write (R11). -/
theorem readReg_writeReg (s : State) (r q : RegId) (v : Word) :
    (s.writeReg r v).readReg q = if q = 0#4 then 0#32 else if q = r then v else s.readReg q := by
  unfold State.readReg State.writeReg
  by_cases hq : q = 0#4
  · simp [hq]
  · by_cases hr : r = 0#4
    · subst hr; simp [hq]
    · by_cases h : q = r
      · subst h; simp [hq]
      · have : ¬ r.toNat = q.toNat := fun e => h (BitVec.eq_of_toNat_eq e.symm)
        simp [hq, hr, h, Vector.getElem_set_ne, this]

/-- A write to register 0 is discarded (R11). -/
@[simp] theorem writeReg_zero (s : State) (v : Word) : s.writeReg 0#4 v = s := rfl

/-- Reading a special register after a write (R20). -/
theorem readSpr_writeSpr (s : State) (i j : RegId) (v : Word) :
    (s.writeSpr i v).readSpr j = if j = i then v else s.readSpr j := by
  unfold State.readSpr State.writeSpr
  by_cases h : j = i
  · subst h; simp
  · have : ¬ i.toNat = j.toNat := fun e => h (BitVec.eq_of_toNat_eq e.symm)
    simp [h, Vector.getElem_set_ne, this]

/-! ### Control bits -/

theorem getLsbD_setBit (w : Word) (n m : Nat) (b : Bool) (hn : n < 32) :
    (setBit w n b).getLsbD m = if m = n then b else w.getLsbD m := by
  unfold setBit
  by_cases h : m = n
  · subst h; cases b <;> simp [hn]
  · have h' : ¬ n = m := fun e => h e.symm
    have hw : 32 ≤ m → w.getLsbD m = false := fun h => BitVec.getLsbD_of_ge w m h
    cases b <;> simp [h, h', BitVec.getLsbD_twoPow]
    intro hm
    exact Nat.lt_of_not_le fun hge => by simp [hw hge] at hm

@[simp] theorem modeOf_bitOf (m : Mode) : modeOf (bitOf m) = m := by cases m <;> rfl

/-- The control register after the four control bits are assigned, bit by bit (R22, R23). -/
theorem getLsbD_setControl (s : State) (ie : Bool) (ku : Mode) (oie : Bool) (oku : Mode) (n : Nat) :
    ((s.setControl ie ku oie oku).readSpr sprCtrl).getLsbD n =
      if n = bitOKU then bitOf oku else if n = bitOIE then oie else if n = bitKU then bitOf ku
      else if n = bitIE then ie else (s.readSpr sprCtrl).getLsbD n := by
  unfold State.setControl
  rw [readSpr_writeSpr, if_pos rfl, getLsbD_setBit _ _ _ _ (by decide), getLsbD_setBit _ _ _ _ (by decide),
    getLsbD_setBit _ _ _ _ (by decide), getLsbD_setBit _ _ _ _ (by decide)]

theorem setControl_readSpr (s : State) (ie : Bool) (ku : Mode) (oie : Bool) (oku : Mode) (j : RegId) (h : j ≠ sprCtrl) :
    (s.setControl ie ku oie oku).readSpr j = s.readSpr j := by
  unfold State.setControl; rw [readSpr_writeSpr, if_neg h]

theorem setControl_ie (s : State) (ie : Bool) (ku : Mode) (oie : Bool) (oku : Mode) :
    (s.setControl ie ku oie oku).ie = ie := by
  unfold State.ie; rw [getLsbD_setControl]; rfl

theorem setControl_ku (s : State) (ie : Bool) (ku : Mode) (oie : Bool) (oku : Mode) :
    (s.setControl ie ku oie oku).ku = ku := by
  unfold State.ku; rw [getLsbD_setControl]; exact modeOf_bitOf ku

theorem setControl_oie (s : State) (ie : Bool) (ku : Mode) (oie : Bool) (oku : Mode) :
    (s.setControl ie ku oie oku).oie = oie := by
  unfold State.oie; rw [getLsbD_setControl]; rfl

theorem setControl_oku (s : State) (ie : Bool) (ku : Mode) (oie : Bool) (oku : Mode) :
    (s.setControl ie ku oie oku).oku = oku := by
  unfold State.oku; rw [getLsbD_setControl]; exact modeOf_bitOf oku

theorem getLsbD_setControl_other (s : State) (ie : Bool) (ku : Mode) (oie : Bool) (oku : Mode) (n : Nat)
    (h : OtherControlBit n) :
    ((s.setControl ie ku oie oku).readSpr sprCtrl).getLsbD n = (s.readSpr sprCtrl).getLsbD n := by
  obtain ⟨h1, h2, h3, h4⟩ := h
  rw [getLsbD_setControl, if_neg h4, if_neg h3, if_neg h2, if_neg h1]

/-- The control bits are read from the control register alone. -/
theorem control_of_readSpr {s t : State} (h : t.readSpr sprCtrl = s.readSpr sprCtrl) :
    t.ie = s.ie ∧ t.ku = s.ku ∧ t.oie = s.oie ∧ t.oku = s.oku := by
  simp only [State.ie, State.ku, State.oie, State.oku, h, and_self]

/-! ### Operands -/

/-- `bits 19:0` of a zero-extended address is the address. -/
@[simp] theorem low20_zext20 (a : Addr) : low20 (zext20 a) = a := by
  apply BitVec.eq_of_toNat_eq
  simpa [low20, zext20] using a.isLt

/-- A branch target is the next address plus the offset, modulo 2^20 (R179 (d)). -/
theorem branchTarget_eq (pc : Addr) (off : Imm20) : branchTarget pc off = nextAddr pc + off := by
  have h : ∀ v : Word, low20 v = v.setWidth 20 := by
    intro v
    apply BitVec.eq_of_toNat_eq
    simp [low20]
  unfold branchTarget sext20 zext20
  rw [h, BitVec.setWidth_add _ _ (by decide)]
  congr 1
  · apply BitVec.eq_of_toNat_eq; simp
  · apply BitVec.eq_of_getLsbD_eq; intro i hi; simp [BitVec.getLsbD_signExtend, hi]; omega

/-! ### Taking an exception and returning from one -/

/-- Trap entry, everything it does (R230). -/
theorem trapEntry_spec (s : State) (c : Config.Cause) (ret : Addr) : TrapTaken s c ret (s.trapEntry c ret) := by
  have hc : (s.trapEntry c ret).readSpr sprCtrl = (s.setControl false .kernel s.ie s.ku).readSpr sprCtrl := by
    simp only [State.trapEntry, State.recordCause, State.saveR13, ersSavesR13, State.setPc_readSpr, readSpr_writeSpr]
    rfl
  have ho : ∀ i, i ≠ sprCtrl → i ≠ sprEar → i ≠ sprEstat → (s.trapEntry c ret).readSpr i = s.readSpr i := by
    intro i h1 h2 h3
    simp only [State.trapEntry, State.recordCause, State.saveR13, ersSavesR13, State.setPc_readSpr, readSpr_writeSpr,
      if_neg h2, if_neg h3, setControl_readSpr s _ _ _ _ i h1]
  have hb := control_of_readSpr hc
  refine ⟨?_, ?_, ?_, ?_, ?_, ?_, ?_, ?_, ho, fun _ => rfl, fun _ => rfl, rfl, rfl, rfl, rfl⟩
  · rw [hb.2.2.1, setControl_oie]
  · rw [hb.2.2.2, setControl_oku]
  · rw [hb.1, setControl_ie]
  · rw [hb.2.1, setControl_ku]
  · simp only [State.trapEntry, State.recordCause, State.saveR13, ersSavesR13, State.setPc_readSpr, readSpr_writeSpr]; rfl
  · simp only [State.trapEntry, State.recordCause, State.saveR13, ersSavesR13, State.setPc_readSpr, readSpr_writeSpr]; rfl
  · have := ho sprEvec (by decide) (by decide) (by decide)
    exact congrArg low20 this
  · intro n hn; rw [hc, getLsbD_setControl_other _ _ _ _ _ _ hn]

@[simp] theorem trapEntry_mem (s : State) (c : Config.Cause) (ret : Addr) : (s.trapEntry c ret).mem = s.mem := rfl
@[simp] theorem trapEntry_regs (s : State) (c : Config.Cause) (ret : Addr) : (s.trapEntry c ret).regs = s.regs := rfl
@[simp] theorem trapEntry_pending (s : State) (c : Config.Cause) (ret : Addr) : (s.trapEntry c ret).pending = s.pending := rfl
@[simp] theorem trapEntry_memMap (s : State) (c : Config.Cause) (ret : Addr) : (s.trapEntry c ret).memMap = s.memMap := rfl
@[simp] theorem trapEntry_deviceLog (s : State) (c : Config.Cause) (ret : Addr) :
    (s.trapEntry c ret).deviceLog = s.deviceLog := rfl
@[simp] theorem trapEntry_draws (s : State) (c : Config.Cause) (ret : Addr) : (s.trapEntry c ret).draws = s.draws := rfl

/-- Raising an exception, everything it does (R230, R231). -/
theorem raise_spec (s : State) (e : Config.Exc) : Raises s e (s.raise e) := trapEntry_spec s _ _

/-- Return from exception, everything it does (R199, R235). -/
theorem returnFromTrap_spec (s : State) : ReturnsFromTrap s s.returnFromTrap := by
  have hc : s.returnFromTrap.readSpr sprCtrl = (s.setControl s.oie s.oku s.oie s.oku).readSpr sprCtrl := rfl
  have hb := control_of_readSpr hc
  refine ⟨?_, ?_, ?_, ?_, rfl, ?_, ?_, fun _ => rfl, fun _ => rfl, rfl, rfl, rfl, rfl⟩
  · rw [hb.1, setControl_ie]
  · rw [hb.2.1, setControl_ku]
  · rw [hb.2.2.1, setControl_oie]
  · rw [hb.2.2.2, setControl_oku]
  · intro n hn; rw [hc, getLsbD_setControl_other _ _ _ _ _ _ hn]
  · intro i hi; exact setControl_readSpr s _ _ _ _ i hi

@[simp] theorem returnFromTrap_mem (s : State) : s.returnFromTrap.mem = s.mem := rfl
@[simp] theorem returnFromTrap_pending (s : State) : s.returnFromTrap.pending = s.pending := rfl
@[simp] theorem returnFromTrap_memMap (s : State) : s.returnFromTrap.memMap = s.memMap := rfl
@[simp] theorem returnFromTrap_deviceLog (s : State) : s.returnFromTrap.deviceLog = s.deviceLog := rfl

/-! ### Ends of instructions -/

/-- A register write and a change of the program counter, everything they do. -/
theorem writeReg_setPc_spec (s : State) (rd : RegId) (v : Word) (a : Addr) :
    WritesRegGoing s rd v a ((s.writeReg rd v).setPc a) :=
  ⟨rfl, fun r => readReg_writeReg s rd r v, fun _ => rfl, fun _ => rfl, rfl, rfl, rfl, rfl⟩

/-- A register write with fall-through, everything it does. -/
theorem writeReg_advance_spec (s : State) (rd : RegId) (v : Word) : WritesReg s rd v (s.writeReg rd v).advance :=
  writeReg_setPc_spec s rd v _

theorem writeNext_spec (s : State) (rd : RegId) (v : Word) : ∃ t, s.writeNext rd v = .next t ∧ WritesReg s rd v t :=
  ⟨_, rfl, writeReg_advance_spec s rd v⟩

/-- The end of an arithmetic instruction, everything it does (R99). -/
theorem finish_spec (s : State) (rd : RegId) (r : Arith) : ∃ t, s.finish rd r = .next t ∧ Finishes s rd r t := by
  cases r with
  | value v => exact ⟨_, rfl, writeReg_advance_spec s rd v⟩
  | raise e => exact ⟨_, rfl, raise_spec s e⟩

/-- A jump, everything it does. -/
theorem setPc_spec (s : State) (a : Addr) : OnlyPc s a (s.setPc a) :=
  ⟨rfl, fun _ => rfl, fun _ => rfl, fun _ => rfl, rfl, rfl, rfl, rfl⟩

/-- A special register write with fall-through, everything it does. -/
theorem writeSpr_advance_spec (s : State) (i : RegId) (v : Word) : WritesSpr s i v (s.writeSpr i v).advance :=
  ⟨rfl, fun _ => rfl, fun j => readSpr_writeSpr s i j v, fun _ => rfl, rfl, rfl, rfl, rfl⟩

/-- A word store with fall-through, everything it does. -/
theorem setWord_advance_spec (s : State) (a : Addr) (v : Word) :
    StoresWord s a v (s.setMem (Memory.setWord s.mem a v)).advance :=
  ⟨rfl, fun _ => rfl, fun _ => rfl, Memory.word_setWord_same s.mem a v,
    fun k hk => Memory.byte_setWord_other s.mem a v k hk, rfl, rfl, rfl, rfl⟩

/-! ### Memory accesses -/

/-- What `MemRead` can do (R42). -/
theorem memRead_cases (s : State) (a : Addr) :
    (kindAt s.memMap a = .ram ∧ s.memRead a = .done (Memory.word s.mem a) s) ∨
    (kindAt s.memMap a = .device ∧
      s.memRead a = .done (Config.deviceAnswer s.draws a) (s.logDevice (.read a)).drawn) ∨
    (kindAt s.memMap a = .unmapped ∧ s.memRead a = .absent a) := by
  unfold State.memRead
  cases h : kindAt s.memMap a <;> simp

/-- What `MemWrite` can do (R43). -/
theorem memWrite_cases (s : State) (a : Addr) (v : Word) :
    (kindAt s.memMap a = .ram ∧ s.memWrite a v = .done () (s.setMem (Memory.setWord s.mem a v))) ∨
    (kindAt s.memMap a = .device ∧ s.memWrite a v = .done () (s.logDevice (.write a v))) ∨
    (kindAt s.memMap a = .unmapped ∧ s.memWrite a v = .absent a) := by
  unfold State.memWrite
  cases h : kindAt s.memMap a <;> simp

theorem translate_kernel (s : State) (a : Addr) (k : Config.AccessKind) (h : s.ku = .kernel) :
    s.translate a k = .physical a := by
  simp [State.translate, h]

theorem translate_user (s : State) (a : Addr) (k : Config.AccessKind) (h : s.ku = .user) :
    s.translate a k = Config.userAccess s.sprs s.mem a k := by
  simp [State.translate, h]

/-- A read that is made leaves all of the state but the device log and the draws. -/
theorem memRead_done {s t : State} {a : Addr} {v : Word} (h : s.memRead a = .done v t) :
    t = s ∨ t = (s.logDevice (.read a)).drawn := by
  rcases memRead_cases s a with ⟨_, e⟩ | ⟨_, e⟩ | ⟨_, e⟩ <;> rw [e] at h <;> simp_all

/-- A load or fetch that is made was made at a physical address. -/
theorem load_done {s t : State} {a : Addr} {k : Config.AccessKind} {v : Word} (h : s.load a k = .done v t) :
    ∃ p, s.translate a k = .physical p ∧ s.memRead p = .done v t := by
  unfold State.load at h
  cases e : s.translate a k with
  | physical p => exact ⟨p, rfl, by simpa [e] using h⟩
  | violation => simp [e] at h

/-- A store that is made was made at a physical address. -/
theorem store_done {s t : State} {a : Addr} {v : Word} {u : Unit} (h : s.store a v = .done u t) :
    ∃ p, s.translate a .store = .physical p ∧ s.memWrite p v = .done u t := by
  unfold State.store at h
  cases e : s.translate a .store with
  | physical p => exact ⟨p, rfl, by simpa [e] using h⟩
  | violation => simp [e] at h

/-- A write that is made sets one word or is handed to a device. -/
theorem memWrite_done {s t : State} {a : Addr} {v : Word} {u : Unit} (h : s.memWrite a v = .done u t) :
    t = s.setMem (Memory.setWord s.mem a v) ∨ t = s.logDevice (.write a v) := by
  rcases memWrite_cases s a v with ⟨_, e⟩ | ⟨_, e⟩ | ⟨_, e⟩ <;> rw [e] at h <;> simp_all

/-! ### Privilege and interrupts -/

theorem privileged_kernel (s : State) (r : Result) (h : s.ku = .kernel) : s.privileged r = r := by
  simp [State.privileged, h]

theorem privileged_user (s : State) (r : Result) (h : s.ku = .user) :
    s.privileged r = .next (s.raise .privilegeViolation) := by
  simp [State.privileged, h]

/-- What interrupt sampling can do (R225). -/
theorem sampleInterrupt_cases (s : State) :
    (s.deliverable = 0#8 ∧ s.sampleInterrupt = .notTaken s) ∨
    (s.deliverable ≠ 0#8 ∧ Config.takesInterrupt s.draws = true ∧
      s.sampleInterrupt = .taken (s.drawn.trapEntry (.interrupt s.deliverable) s.pc)) ∨
    (s.deliverable ≠ 0#8 ∧ Config.takesInterrupt s.draws = false ∧ s.sampleInterrupt = .notTaken s.drawn) := by
  unfold State.sampleInterrupt
  by_cases h : s.deliverable = 0#8
  · simp [h]
  · cases e : Config.takesInterrupt s.draws <;> simp [h]

/-! ### Counting -/

/-- Counting, everything it does: the counter's cell takes the draw, and the draw is counted (R242). -/
theorem counted_spec (s : State) (r : RegId) :
    (∀ j : RegId, (s.counted r).readSpr j = if j = r then Config.counterValue s.draws r (s.readSpr r) else s.readSpr j) ∧
    (s.counted r).regs = s.regs ∧ (s.counted r).pc = s.pc ∧ (s.counted r).mem = s.mem ∧ (s.counted r).pending = s.pending ∧
    (s.counted r).memMap = s.memMap ∧ (s.counted r).deviceLog = s.deviceLog ∧ (s.counted r).draws = s.draws + 1 :=
  ⟨fun j => readSpr_writeSpr s r j _, rfl, rfl, rfl, rfl, rfl, rfl, rfl⟩

/-- Only `movsg` reads a counter, and only `$icount` or `$ccount` is one. -/
theorem counterRead_some {i : Instr} {r : RegId} (h : counterRead i = some r) :
    (r = sprIcount ∨ r = sprCcount) ∧ ∃ rd, i = .movsg rd r := by
  unfold counterRead at h
  split at h
  · next rd rs =>
    split at h
    · next hc =>
      injection h with h
      subst h
      exact ⟨by simpa [sprCounts] using hc, rd, rfl⟩
    · cases h
  · cases h

/-- What counting before an instruction can do: nothing, or in kernel mode count the one counter a `movsg` is about to read. -/
theorem countedFor_cases (s : State) (i : Instr) :
    s.countedFor i = s ∨
    ∃ rd r, i = .movsg rd r ∧ (r = sprIcount ∨ r = sprCcount) ∧ s.ku = .kernel ∧ s.countedFor i = s.counted r := by
  unfold State.countedFor
  cases h : counterRead i with
  | none => exact .inl rfl
  | some r =>
    obtain ⟨hr, rd, hi⟩ := counterRead_some h
    cases hk : s.ku with
    | kernel => exact .inr ⟨rd, r, hi, hr, rfl, rfl⟩
    | user => exact .inl rfl

/-- Counting leaves alone all but the counters' cells and the draws. -/
theorem countedFor_spec (s : State) (i : Instr) :
    (∀ j : RegId, j ≠ sprIcount → j ≠ sprCcount → (s.countedFor i).readSpr j = s.readSpr j) ∧
    (s.countedFor i).regs = s.regs ∧ (s.countedFor i).pc = s.pc ∧ (s.countedFor i).mem = s.mem ∧
    (s.countedFor i).pending = s.pending ∧ (s.countedFor i).memMap = s.memMap ∧
    (s.countedFor i).deviceLog = s.deviceLog := by
  rcases countedFor_cases s i with e | ⟨_, r, _, hr, _, e⟩ <;> rw [e]
  · exact ⟨fun _ _ _ => rfl, rfl, rfl, rfl, rfl, rfl, rfl⟩
  · obtain ⟨h, h1, h2, h3, h4, h5, h6, _⟩ := counted_spec s r
    refine ⟨fun j h7 h8 => ?_, h1, h2, h3, h4, h5, h6⟩
    rw [h j, if_neg]
    rcases hr with rfl | rfl
    · exact h7
    · exact h8

/-- Counting changes no control bit. -/
theorem countedFor_control (s : State) (i : Instr) :
    (s.countedFor i).ie = s.ie ∧ (s.countedFor i).ku = s.ku ∧ (s.countedFor i).oie = s.oie ∧ (s.countedFor i).oku = s.oku :=
  control_of_readSpr ((countedFor_spec s i).1 sprCtrl (by decide) (by decide))

end Sys2Proof.Machine
end

