-- ==== Sys2Proof/Laws/Exec.lean ====
section
/-! SUPPORT. Once, everything `exec` can do: the inversion lemmas that statements about all instructions rest on. -/

namespace Sys2Proof.Machine

/-- The next states `exec` can give, by what the instruction is made of. -/
inductive NextOf (i : Instr) (s : State) : State → Prop where
  /-- A result register and the program counter (arithmetic, bitwise, test, `lw` from memory, `movsg`, `jal`, `jalr`). -/
  | writes (rd : RegId) (v : Word) (a : Addr) : NextOf i s ((s.writeReg rd v).setPc a)
  /-- The program counter alone (`j`, `jr`, `beqz`, `bnez`). -/
  | jumps (a : Addr) : NextOf i s (s.setPc a)
  /-- Trap entry with return address `pc_next`. -/
  | raises (e : Config.Exc) : NextOf i s (s.raise e)
  /-- `lw` from a device. -/
  | loadsDevice (rd : RegId) (v : Word) (p : Addr) : NextOf i s (((s.logDevice (.read p)).drawn.writeReg rd v).advance)
  /-- `sw` to memory. -/
  | stores (rd rs : RegId) (off : Imm20) (p : Addr) (hi : i = .sw rd rs off)
      (hp : s.translate (effectiveAddr (s.readReg rs) off) .store = .physical p) :
      NextOf i s (s.setMem (Memory.setWord s.mem p (s.readReg rd))).advance
  /-- `sw` to a device. -/
  | storesDevice (rd rs : RegId) (off : Imm20) (p : Addr) (hi : i = .sw rd rs off) :
      NextOf i s (s.logDevice (.write p (s.readReg rd))).advance
  /-- `movgs` in kernel mode. -/
  | writesSpecial (rd rs : RegId) (hi : i = .movgs rd rs) (hk : s.ku = .kernel) :
      NextOf i s (s.writeSpr rd (s.readReg rs)).advance
  /-- `rfe` in kernel mode. -/
  | returns (hi : i = .rfe) (hk : s.ku = .kernel) : NextOf i s s.returnFromTrap

theorem finish_next {i : Instr} {s t : State} {rd : RegId} {r : Arith} (h : s.finish rd r = .next t) : NextOf i s t := by
  cases r with
  | value v => injection h with h; subst h; exact .writes rd v _
  | raise e => injection h with h; subst h; exact .raises e

theorem writeNext_next {i : Instr} {s t : State} {rd : RegId} {v : Word} (h : s.writeNext rd v = .next t) : NextOf i s t := by
  injection h with h; subst h; exact .writes rd v _

theorem execLw_next {rd rs : RegId} {off : Imm20} {i : Instr} {s t : State} (h : execLw rd rs off s = .next t) :
    NextOf i s t := by
  unfold execLw at h
  split at h
  · next v u e =>
    obtain ⟨p, _, hp⟩ := load_done e
    injection h with h
    rcases memRead_cases s p with ⟨_, e'⟩ | ⟨_, e'⟩ | ⟨_, e'⟩ <;> rw [e'] at hp <;> cases hp
    · subst h; exact .writes rd _ _
    · subst h; exact .loadsDevice rd _ p
  · injection h with h; subst h; exact .raises _
  · cases h

theorem execSw_next {rd rs : RegId} {off : Imm20} {s t : State} (h : execSw rd rs off s = .next t) :
    NextOf (.sw rd rs off) s t := by
  unfold execSw at h
  split at h
  · next v u e =>
    obtain ⟨p, hp, hw⟩ := store_done e
    injection h with h
    rcases memWrite_done hw with rfl | rfl
    · subst h; exact .stores rd rs off p rfl hp
    · subst h; exact .storesDevice rd rs off p rfl
  · injection h with h; subst h; exact .raises _
  · cases h

theorem privileged_next {i : Instr} {s t : State} {r : Result} (h : s.privileged r = .next t)
    (hr : s.ku = .kernel → r = .next t → NextOf i s t) : NextOf i s t := by
  unfold State.privileged at h
  split at h
  · next hk => exact hr hk h
  · injection h with h; subst h; exact .raises _

/-- Everything a next state of `exec` can be. -/
theorem exec_next_cases {i : Instr} {s t : State} (h : exec i s = .next t) : NextOf i s t := by
  cases i with
  | lw rd rs off => exact execLw_next h
  | sw rd rs off => exact execSw_next h
  | movgs rd rs =>
    refine privileged_next h fun hk hr => ?_
    split at hr
    · injection hr with hr; subst hr; exact .writesSpecial rd rs rfl hk
    · cases hr
  | movsg rd rs =>
    refine privileged_next h fun hk hr => ?_
    split at hr
    · exact writeNext_next hr
    · cases hr
  | rfe => exact privileged_next h fun hk hr => by injection hr with hr; subst hr; exact .returns rfl hk
  | brk => injection h with h; subst h; exact .raises _
  | syscall => injection h with h; subst h; exact .raises _
  | j addr => injection h with h; subst h; exact .jumps _
  | jr rs => injection h with h; subst h; exact .jumps _
  | beqz rs off => injection h with h; subst h; exact .jumps _
  | bnez rs off => injection h with h; subst h; exact .jumps _
  | jal addr => injection h with h; subst h; exact .writes _ _ _
  | jalr rs =>
    simp only [exec, execJalr] at h
    split at h
    · cases h
    · injection h with h; subst h; exact .writes _ _ _
  | _ => first
    | exact finish_next h
    | exact writeNext_next h

/-- The only fault of `exec`: an access at an address MemMap has nothing at (R42). -/
theorem exec_fault_cases {i : Instr} {s : State} {f : Fault} (h : exec i s = .fault f) :
    ∃ a k, f = .unmapped a k ∧ kindAt s.memMap a = .unmapped := by
  have hfin : ∀ rd r, s.finish rd r ≠ .fault f := by intro rd r; cases r <;> exact fun h => by cases h
  have hpriv : ∀ r : Result, r ≠ .fault f → s.privileged r ≠ .fault f := by
    intro r hr; unfold State.privileged; split
    · exact hr
    · exact fun h => by cases h
  cases i with
  | lw rd rs off =>
    simp only [exec, execLw] at h
    split at h
    · cases h
    · cases h
    · next a e =>
      injection h with h
      unfold State.load at e
      split at e
      · next p _ =>
        rcases memRead_cases s p with ⟨_, e'⟩ | ⟨_, e'⟩ | ⟨hk, e'⟩ <;> rw [e'] at e <;> cases e
        exact ⟨_, _, h.symm, hk⟩
      · cases e
  | sw rd rs off =>
    simp only [exec, execSw] at h
    split at h
    · cases h
    · cases h
    · next a e =>
      injection h with h
      unfold State.store at e
      split at e
      · next p _ =>
        rcases memWrite_cases s p (s.readReg rd) with ⟨_, e'⟩ | ⟨_, e'⟩ | ⟨hk, e'⟩ <;> rw [e'] at e <;> cases e
        exact ⟨_, _, h.symm, hk⟩
      · cases e
  | movgs rd rs => exact absurd h (hpriv _ (by split <;> exact fun h => by cases h))
  | movsg rd rs => exact absurd h (hpriv _ (by split <;> exact fun h => by cases h))
  | rfe => exact absurd h (hpriv _ (fun h => by cases h))
  | jalr rs => simp only [exec, execJalr] at h; split at h <;> cases h
  | _ => first
    | exact absurd h (hfin _ _)
    | cases h

/-- The only refusals of `exec`: `jalr $ra` (R183), and in kernel mode a special register that is not implemented (R20). -/
theorem exec_refused_cases {i : Instr} {s : State} {r : Refusal} (h : exec i s = .refused r) :
    i = .jalr 15#4 ∨ s.ku = .kernel ∧ ∃ a b, sprImplemented a = false ∧ (i = .movgs a b ∨ i = .movsg b a) := by
  have hfin : ∀ rd x, s.finish rd x ≠ .refused r := by intro rd x; cases x <;> exact fun h => by cases h
  have hpriv : ∀ x : Result, s.privileged x = .refused r → s.ku = .kernel ∧ x = .refused r := by
    intro x hx; unfold State.privileged at hx; split at hx
    · next hk => exact ⟨hk, hx⟩
    · cases hx
  cases i with
  | lw rd rs off => simp only [exec, execLw] at h; split at h <;> cases h
  | sw rd rs off => simp only [exec, execSw] at h; split at h <;> cases h
  | movgs rd rs =>
    obtain ⟨hk, hx⟩ := hpriv _ h
    split at hx
    · cases hx
    · next hn => exact .inr ⟨hk, rd, rs, by simpa using hn, .inl rfl⟩
  | movsg rd rs =>
    obtain ⟨hk, hx⟩ := hpriv _ h
    split at hx
    · cases hx
    · next hn => exact .inr ⟨hk, rs, rd, by simpa using hn, .inr rfl⟩
  | rfe => exact absurd (hpriv _ h).2 (fun h => by cases h)
  | jalr rs =>
    simp only [exec, execJalr] at h
    split at h
    · next hr => exact .inl (by rw [hr])
    · cases h
  | _ => first
    | exact absurd h (hfin _ _)
    | cases h

end Sys2Proof.Machine
end

