-- ==== Sys2Proof/Laws/PerInstr.lean ====
section
/-! SUPPORT. The statement made of every instruction as syntax: its word lies in its row of the opcode table (R69). One lemma
per constructor. -/

namespace Sys2Proof.Laws.EncodeInRow

/-- The instruction's word has its row's constant bits under its row's mask (R69). -/
def Statement (i : Instr) : Prop := encode i &&& i.row.mask = i.row.pattern

theorem and_eq_of_bits (v m p : Word)
    (h : ∀ n < 32, (v.getLsbD n && m.getLsbD n) = p.getLsbD n) : v &&& m = p := by
  apply BitVec.eq_of_getLsbD_eq
  intro n hn
  rw [BitVec.getLsbD_and]
  exact h n hn

/-- An R-type word under the mask of OPcode, Func and the zero field. -/
theorem wordR_and (op fn : BitVec 4) (rd rs rt : RegId) : wordR op fn rd rs rt &&& 0xF00FFFF0#32 = wordR op fn 0 0 0 := by
  apply and_eq_of_bits
  intro n hn
  simp only [wordR, BitVec.getLsbD_append]
  interval_cases n <;> simp

/-- An I-type word under the mask of OPcode and Func. -/
theorem wordI_and (op fn : BitVec 4) (rd rs : RegId) (imm : Imm16) :
    wordI op fn rd rs imm &&& 0xF00F0000#32 = wordI op fn 0 0 0 := by
  apply and_eq_of_bits
  intro n hn
  simp only [wordI, BitVec.getLsbD_append]
  interval_cases n <;> simp

/-- An I-type word under the mask of `lhi`, whose Rs is zero. -/
theorem wordI_and_rs (op fn : BitVec 4) (rd : RegId) (imm : Imm16) :
    wordI op fn rd 0#4 imm &&& 0xF0FF0000#32 = wordI op fn 0 0 0 := by
  apply and_eq_of_bits
  intro n hn
  simp only [wordI, BitVec.getLsbD_append]
  interval_cases n <;> simp

/-- An I-type word under the mask of `movgs` and `movsg`, whose low half is zero. -/
theorem wordI_and_low (op fn : BitVec 4) (rd rs : RegId) :
    wordI op fn rd rs 0#16 &&& 0xF00FFFFF#32 = wordI op fn 0 0 0 := by
  apply and_eq_of_bits
  intro n hn
  simp only [wordI, BitVec.getLsbD_append]
  interval_cases n <;> simp

/-- A J-type word under the mask of OPcode. -/
theorem wordJ_and (op : BitVec 4) (rd rs : RegId) (a : Imm20) : wordJ op rd rs a &&& 0xF0000000#32 = wordJ op 0 0 0 := by
  apply and_eq_of_bits
  intro n hn
  simp only [wordJ, BitVec.getLsbD_append]
  interval_cases n <;> simp

/-- A J-type word under the mask of `j` and `jal`, whose Rd and Rs are zero. -/
theorem wordJ_and_regs (op : BitVec 4) (a : Imm20) : wordJ op 0#4 0#4 a &&& 0xFFF00000#32 = wordJ op 0 0 0 := by
  apply and_eq_of_bits
  intro n hn
  simp only [wordJ, BitVec.getLsbD_append]
  interval_cases n <;> simp

/-- A J-type word under the mask of `jr` and `jalr`, whose Rd and address are zero. -/
theorem wordJ_and_addr (op : BitVec 4) (rs : RegId) : wordJ op 0#4 rs 0#20 &&& 0xFF0FFFFF#32 = wordJ op 0 0 0 := by
  apply and_eq_of_bits
  intro n hn
  simp only [wordJ, BitVec.getLsbD_append]
  interval_cases n <;> simp

/-- A J-type word under the mask of `beqz` and `bnez`, whose Rd is zero. -/
theorem wordJ_and_rd (op : BitVec 4) (rs : RegId) (a : Imm20) : wordJ op 0#4 rs a &&& 0xFF000000#32 = wordJ op 0 0 0 := by
  apply and_eq_of_bits
  intro n hn
  simp only [wordJ, BitVec.getLsbD_append]
  interval_cases n <;> simp

/-- A J-type word under the mask of `la`, whose Rs is zero. -/
theorem wordJ_and_rs (op : BitVec 4) (rd : RegId) (a : Imm20) : wordJ op rd 0#4 a &&& 0xF0F00000#32 = wordJ op 0 0 0 := by
  apply and_eq_of_bits
  intro n hn
  simp only [wordJ, BitVec.getLsbD_append]
  interval_cases n <;> simp

theorem add (rd : RegId) (rs : RegId) (rt : RegId) : Statement (.add rd rs rt) := (wordR_and _ _ _ _ _).trans rfl
theorem addi (rd : RegId) (rs : RegId) (imm : Imm16) : Statement (.addi rd rs imm) := (wordI_and _ _ _ _ _).trans rfl
theorem addu (rd : RegId) (rs : RegId) (rt : RegId) : Statement (.addu rd rs rt) := (wordR_and _ _ _ _ _).trans rfl
theorem addui (rd : RegId) (rs : RegId) (imm : Imm16) : Statement (.addui rd rs imm) := (wordI_and _ _ _ _ _).trans rfl
theorem sub (rd : RegId) (rs : RegId) (rt : RegId) : Statement (.sub rd rs rt) := (wordR_and _ _ _ _ _).trans rfl
theorem subi (rd : RegId) (rs : RegId) (imm : Imm16) : Statement (.subi rd rs imm) := (wordI_and _ _ _ _ _).trans rfl
theorem subu (rd : RegId) (rs : RegId) (rt : RegId) : Statement (.subu rd rs rt) := (wordR_and _ _ _ _ _).trans rfl
theorem subui (rd : RegId) (rs : RegId) (imm : Imm16) : Statement (.subui rd rs imm) := (wordI_and _ _ _ _ _).trans rfl
theorem mult (rd : RegId) (rs : RegId) (rt : RegId) : Statement (.mult rd rs rt) := (wordR_and _ _ _ _ _).trans rfl
theorem multi (rd : RegId) (rs : RegId) (imm : Imm16) : Statement (.multi rd rs imm) := (wordI_and _ _ _ _ _).trans rfl
theorem multu (rd : RegId) (rs : RegId) (rt : RegId) : Statement (.multu rd rs rt) := (wordR_and _ _ _ _ _).trans rfl
theorem multui (rd : RegId) (rs : RegId) (imm : Imm16) : Statement (.multui rd rs imm) := (wordI_and _ _ _ _ _).trans rfl
theorem div (rd : RegId) (rs : RegId) (rt : RegId) : Statement (.div rd rs rt) := (wordR_and _ _ _ _ _).trans rfl
theorem divi (rd : RegId) (rs : RegId) (imm : Imm16) : Statement (.divi rd rs imm) := (wordI_and _ _ _ _ _).trans rfl
theorem divu (rd : RegId) (rs : RegId) (rt : RegId) : Statement (.divu rd rs rt) := (wordR_and _ _ _ _ _).trans rfl
theorem divui (rd : RegId) (rs : RegId) (imm : Imm16) : Statement (.divui rd rs imm) := (wordI_and _ _ _ _ _).trans rfl
theorem rem (rd : RegId) (rs : RegId) (rt : RegId) : Statement (.rem rd rs rt) := (wordR_and _ _ _ _ _).trans rfl
theorem remi (rd : RegId) (rs : RegId) (imm : Imm16) : Statement (.remi rd rs imm) := (wordI_and _ _ _ _ _).trans rfl
theorem remu (rd : RegId) (rs : RegId) (rt : RegId) : Statement (.remu rd rs rt) := (wordR_and _ _ _ _ _).trans rfl
theorem remui (rd : RegId) (rs : RegId) (imm : Imm16) : Statement (.remui rd rs imm) := (wordI_and _ _ _ _ _).trans rfl
theorem lhi (rd : RegId) (imm : Imm16) : Statement (.lhi rd imm) := (wordI_and_rs _ _ _ _).trans rfl
theorem la (rd : RegId) (addr : Imm20) : Statement (.la rd addr) := (wordJ_and_rs _ _ _).trans rfl
theorem and (rd : RegId) (rs : RegId) (rt : RegId) : Statement (.and rd rs rt) := (wordR_and _ _ _ _ _).trans rfl
theorem andi (rd : RegId) (rs : RegId) (imm : Imm16) : Statement (.andi rd rs imm) := (wordI_and _ _ _ _ _).trans rfl
theorem or (rd : RegId) (rs : RegId) (rt : RegId) : Statement (.or rd rs rt) := (wordR_and _ _ _ _ _).trans rfl
theorem ori (rd : RegId) (rs : RegId) (imm : Imm16) : Statement (.ori rd rs imm) := (wordI_and _ _ _ _ _).trans rfl
theorem xor (rd : RegId) (rs : RegId) (rt : RegId) : Statement (.xor rd rs rt) := (wordR_and _ _ _ _ _).trans rfl
theorem xori (rd : RegId) (rs : RegId) (imm : Imm16) : Statement (.xori rd rs imm) := (wordI_and _ _ _ _ _).trans rfl
theorem sll (rd : RegId) (rs : RegId) (rt : RegId) : Statement (.sll rd rs rt) := (wordR_and _ _ _ _ _).trans rfl
theorem slli (rd : RegId) (rs : RegId) (imm : Imm16) : Statement (.slli rd rs imm) := (wordI_and _ _ _ _ _).trans rfl
theorem srl (rd : RegId) (rs : RegId) (rt : RegId) : Statement (.srl rd rs rt) := (wordR_and _ _ _ _ _).trans rfl
theorem srli (rd : RegId) (rs : RegId) (imm : Imm16) : Statement (.srli rd rs imm) := (wordI_and _ _ _ _ _).trans rfl
theorem sra (rd : RegId) (rs : RegId) (rt : RegId) : Statement (.sra rd rs rt) := (wordR_and _ _ _ _ _).trans rfl
theorem srai (rd : RegId) (rs : RegId) (imm : Imm16) : Statement (.srai rd rs imm) := (wordI_and _ _ _ _ _).trans rfl
theorem slt (rd : RegId) (rs : RegId) (rt : RegId) : Statement (.slt rd rs rt) := (wordR_and _ _ _ _ _).trans rfl
theorem slti (rd : RegId) (rs : RegId) (imm : Imm16) : Statement (.slti rd rs imm) := (wordI_and _ _ _ _ _).trans rfl
theorem sltu (rd : RegId) (rs : RegId) (rt : RegId) : Statement (.sltu rd rs rt) := (wordR_and _ _ _ _ _).trans rfl
theorem sltui (rd : RegId) (rs : RegId) (imm : Imm16) : Statement (.sltui rd rs imm) := (wordI_and _ _ _ _ _).trans rfl
theorem sgt (rd : RegId) (rs : RegId) (rt : RegId) : Statement (.sgt rd rs rt) := (wordR_and _ _ _ _ _).trans rfl
theorem sgti (rd : RegId) (rs : RegId) (imm : Imm16) : Statement (.sgti rd rs imm) := (wordI_and _ _ _ _ _).trans rfl
theorem sgtu (rd : RegId) (rs : RegId) (rt : RegId) : Statement (.sgtu rd rs rt) := (wordR_and _ _ _ _ _).trans rfl
theorem sgtui (rd : RegId) (rs : RegId) (imm : Imm16) : Statement (.sgtui rd rs imm) := (wordI_and _ _ _ _ _).trans rfl
theorem sle (rd : RegId) (rs : RegId) (rt : RegId) : Statement (.sle rd rs rt) := (wordR_and _ _ _ _ _).trans rfl
theorem slei (rd : RegId) (rs : RegId) (imm : Imm16) : Statement (.slei rd rs imm) := (wordI_and _ _ _ _ _).trans rfl
theorem sleu (rd : RegId) (rs : RegId) (rt : RegId) : Statement (.sleu rd rs rt) := (wordR_and _ _ _ _ _).trans rfl
theorem sleui (rd : RegId) (rs : RegId) (imm : Imm16) : Statement (.sleui rd rs imm) := (wordI_and _ _ _ _ _).trans rfl
theorem sge (rd : RegId) (rs : RegId) (rt : RegId) : Statement (.sge rd rs rt) := (wordR_and _ _ _ _ _).trans rfl
theorem sgei (rd : RegId) (rs : RegId) (imm : Imm16) : Statement (.sgei rd rs imm) := (wordI_and _ _ _ _ _).trans rfl
theorem sgeu (rd : RegId) (rs : RegId) (rt : RegId) : Statement (.sgeu rd rs rt) := (wordR_and _ _ _ _ _).trans rfl
theorem sgeui (rd : RegId) (rs : RegId) (imm : Imm16) : Statement (.sgeui rd rs imm) := (wordI_and _ _ _ _ _).trans rfl
theorem seq (rd : RegId) (rs : RegId) (rt : RegId) : Statement (.seq rd rs rt) := (wordR_and _ _ _ _ _).trans rfl
theorem seqi (rd : RegId) (rs : RegId) (imm : Imm16) : Statement (.seqi rd rs imm) := (wordI_and _ _ _ _ _).trans rfl
theorem sequ (rd : RegId) (rs : RegId) (rt : RegId) : Statement (.sequ rd rs rt) := (wordR_and _ _ _ _ _).trans rfl
theorem sequi (rd : RegId) (rs : RegId) (imm : Imm16) : Statement (.sequi rd rs imm) := (wordI_and _ _ _ _ _).trans rfl
theorem sne (rd : RegId) (rs : RegId) (rt : RegId) : Statement (.sne rd rs rt) := (wordR_and _ _ _ _ _).trans rfl
theorem snei (rd : RegId) (rs : RegId) (imm : Imm16) : Statement (.snei rd rs imm) := (wordI_and _ _ _ _ _).trans rfl
theorem sneu (rd : RegId) (rs : RegId) (rt : RegId) : Statement (.sneu rd rs rt) := (wordR_and _ _ _ _ _).trans rfl
theorem sneui (rd : RegId) (rs : RegId) (imm : Imm16) : Statement (.sneui rd rs imm) := (wordI_and _ _ _ _ _).trans rfl
theorem j (addr : Imm20) : Statement (.j addr) := (wordJ_and_regs _ _).trans rfl
theorem jr (rs : RegId) : Statement (.jr rs) := (wordJ_and_addr _ _).trans rfl
theorem jal (addr : Imm20) : Statement (.jal addr) := (wordJ_and_regs _ _).trans rfl
theorem jalr (rs : RegId) : Statement (.jalr rs) := (wordJ_and_addr _ _).trans rfl
theorem beqz (rs : RegId) (off : Imm20) : Statement (.beqz rs off) := (wordJ_and_rd _ _ _).trans rfl
theorem bnez (rs : RegId) (off : Imm20) : Statement (.bnez rs off) := (wordJ_and_rd _ _ _).trans rfl
theorem lw (rd : RegId) (rs : RegId) (off : Imm20) : Statement (.lw rd rs off) := (wordJ_and _ _ _ _).trans rfl
theorem sw (rd : RegId) (rs : RegId) (off : Imm20) : Statement (.sw rd rs off) := (wordJ_and _ _ _ _).trans rfl
theorem movgs (rd : RegId) (rs : RegId) : Statement (.movgs rd rs) := (wordI_and_low _ _ _ _).trans rfl
theorem movsg (rd : RegId) (rs : RegId) : Statement (.movsg rd rs) := (wordI_and_low _ _ _ _).trans rfl
theorem brk : Statement .brk := by unfold Statement; decide
theorem syscall : Statement .syscall := by unfold Statement; decide
theorem rfe : Statement .rfe := by unfold Statement; decide

end Sys2Proof.Laws.EncodeInRow
end

