-- ==== Sys2Proof/Laws/Step.lean ====
section
/-! SUPPORT. Once, everything a step can do: the inversion lemmas of `step` and of the fetch. -/

namespace Sys2Proof.Machine

/-- A fetch that is made leaves all of the state but the device log and the draws. -/
theorem fetch_done {s t : State} {w : Word} (h : s.fetch = .done w t) :
    t = s ∨ ∃ p, t = (s.logDevice (.read p)).drawn := by
  obtain ⟨p, _, hr⟩ := load_done h
  rcases memRead_done hr with e | e
  · exact .inl e
  · exact .inr ⟨p, e⟩

/-- The next states a step can give (R225, R226, R257). -/
inductive StepTo (s : State) : State → Prop where
  /-- An interrupt is taken. -/
  | interrupt (hd : s.deliverable ≠ 0#8) : StepTo s (s.drawn.trapEntry (.interrupt s.deliverable) s.pc)
  /-- The fetch is a violation. -/
  | fetchViolation (s0 : State) (h0 : s.sampleInterrupt = .notTaken s0) : StepTo s s0.fetchViolation
  /-- The word fetched is no instruction. -/
  | illegal (s0 s1 : State) (w : Word) (h0 : s.sampleInterrupt = .notTaken s0) (hf : s0.fetch = .done w s1) :
      StepTo s (s1.raise .illegalInstruction)
  /-- The instruction runs, a counter it is about to read having counted. -/
  | runs (s0 s1 : State) (w : Word) (i : Instr) (t : State) (h0 : s.sampleInterrupt = .notTaken s0)
      (hf : s0.fetch = .done w s1) (hi : decode w = .ok i) (ht : exec i (s1.countedFor i) = .next t) : StepTo s t

/-- Everything a next state of `step` can be. -/
theorem step_next_cases {s t : State} (h : step s = .next t) : StepTo s t := by
  unfold step at h
  split at h
  · next s1 e =>
    injection h with h
    rcases sampleInterrupt_cases s with ⟨_, e'⟩ | ⟨hd, _, e'⟩ | ⟨_, _, e'⟩ <;> rw [e'] at e <;> cases e
    subst h
    exact .interrupt hd
  · next s0 e =>
    unfold instructionStep at h
    split at h
    · next w s1 hf =>
      split at h
      · next i hi => exact .runs s0 s1 w i t e hf hi h
      · injection h with h
        subst h
        exact .illegal s0 s1 w e hf
    · injection h with h
      subst h
      exact .fetchViolation s0 e
    · cases h

/-- Sampling that takes no interrupt changes nothing, or counts a draw. -/
theorem sampleInterrupt_notTaken {s s0 : State} (h : s.sampleInterrupt = .notTaken s0) : s0 = s ∨ s0 = s.drawn := by
  rcases sampleInterrupt_cases s with ⟨_, e⟩ | ⟨_, _, e⟩ | ⟨_, _, e⟩ <;> rw [e] at h <;> cases h
  · exact .inl rfl
  · exact .inr rfl

/-- What sampling that takes no interrupt and a fetch that is made leave as it is: all but the draws and the device log, which
the fetch of a device adds to. -/
theorem fetched_spec {s s0 s1 : State} {w : Word} (h0 : s.sampleInterrupt = .notTaken s0) (hf : s0.fetch = .done w s1) :
    s1.regs = s.regs ∧ s1.pc = s.pc ∧ s1.sprs = s.sprs ∧ s1.mem = s.mem ∧ s1.pending = s.pending ∧ s1.memMap = s.memMap ∧
      ∃ l, s1.deviceLog = s.deviceLog ++ l := by
  rcases sampleInterrupt_notTaken h0 with rfl | rfl <;> rcases fetch_done hf with rfl | ⟨p, rfl⟩
  · exact ⟨rfl, rfl, rfl, rfl, rfl, rfl, [], (List.append_nil _).symm⟩
  · exact ⟨rfl, rfl, rfl, rfl, rfl, rfl, _, rfl⟩
  · exact ⟨rfl, rfl, rfl, rfl, rfl, rfl, [], (List.append_nil _).symm⟩
  · exact ⟨rfl, rfl, rfl, rfl, rfl, rfl, _, rfl⟩

end Sys2Proof.Machine
end

