-- ==== Sys2Proof/Tests/Slice0.lean ====
section
/-! SUPPORT. The model's own tests: words and results written out from the spec (the "Example" of each instruction's rule and the
vectors of 95_test_vectors.md), one step each on a small state; and for every statement with hypotheses a state and operands
that meet them. -/

namespace Sys2Proof.Tests

open Sys2Proof Sys2Proof.Machine

/-! ### Well-formedness -/

theorem test_wf_jalr_ra_refused : (Instr.jalr 15#4).wellFormed = false := by decide
theorem test_wf_jalr_other : (Instr.jalr 14#4).wellFormed = true := by decide
theorem test_wf_movgs_below_refused : (Instr.movgs 3#4 1#4).wellFormed = false := by decide
theorem test_wf_movgs_above_refused : (Instr.movgs 14#4 1#4).wellFormed = false := by decide
theorem test_wf_movsg_below_refused : (Instr.movsg 1#4 3#4).wellFormed = false := by decide
theorem test_wf_movsg_above_refused : (Instr.movsg 1#4 14#4).wellFormed = false := by decide
theorem test_wf_special_bounds : (Instr.movgs 4#4 1#4).wellFormed = true ∧ (Instr.movsg 1#4 13#4).wellFormed = true := by decide

/-! ### Decoding: the word of each rule's "Example" is the instruction the rule names -/

theorem test_decode_add : decodeTableWord 32 0x03100002 = some (.add 3#4 1#4 2#4) := by decide
theorem test_decode_addi : decodeTableWord 32 0x1310FFFF = some (.addi 3#4 1#4 0xFFFF#16) := by decide
theorem test_decode_addu : decodeTableWord 32 0x03110002 = some (.addu 3#4 1#4 2#4) := by decide
theorem test_decode_addui : decodeTableWord 32 0x1311FFFF = some (.addui 3#4 1#4 0xFFFF#16) := by decide
theorem test_decode_sub : decodeTableWord 32 0x03120002 = some (.sub 3#4 1#4 2#4) := by decide
theorem test_decode_subi : decodeTableWord 32 0x1312FFFF = some (.subi 3#4 1#4 0xFFFF#16) := by decide
theorem test_decode_subu : decodeTableWord 32 0x03130002 = some (.subu 3#4 1#4 2#4) := by decide
theorem test_decode_subui : decodeTableWord 32 0x1313FFFF = some (.subui 3#4 1#4 0xFFFF#16) := by decide
theorem test_decode_mult : decodeTableWord 32 0x03140002 = some (.mult 3#4 1#4 2#4) := by decide
theorem test_decode_multi : decodeTableWord 32 0x13148000 = some (.multi 3#4 1#4 0x8000#16) := by decide
theorem test_decode_multu : decodeTableWord 32 0x03150002 = some (.multu 3#4 1#4 2#4) := by decide
theorem test_decode_multui : decodeTableWord 32 0x1315FFFF = some (.multui 3#4 1#4 0xFFFF#16) := by decide
theorem test_decode_div : decodeTableWord 32 0x03160002 = some (.div 3#4 1#4 2#4) := by decide
theorem test_decode_divi : decodeTableWord 32 0x1316FFFE = some (.divi 3#4 1#4 0xFFFE#16) := by decide
theorem test_decode_divu : decodeTableWord 32 0x03170002 = some (.divu 3#4 1#4 2#4) := by decide
theorem test_decode_divui : decodeTableWord 32 0x1317FFFE = some (.divui 3#4 1#4 0xFFFE#16) := by decide
theorem test_decode_rem : decodeTableWord 32 0x03180002 = some (.rem 3#4 1#4 2#4) := by decide
theorem test_decode_remi : decodeTableWord 32 0x1318FFFE = some (.remi 3#4 1#4 0xFFFE#16) := by decide
theorem test_decode_remu : decodeTableWord 32 0x03190002 = some (.remu 3#4 1#4 2#4) := by decide
theorem test_decode_remui : decodeTableWord 32 0x1319FFFE = some (.remui 3#4 1#4 0xFFFE#16) := by decide
theorem test_decode_lhi : decodeTableWord 32 0x330E1234 = some (.lhi 3#4 0x1234#16) := by decide
theorem test_decode_la : decodeTableWord 32 0xC1012345 = some (.la 1#4 0x12345#20) := by decide
theorem test_decode_and : decodeTableWord 32 0x031B0002 = some (.and 3#4 1#4 2#4) := by decide
theorem test_decode_andi : decodeTableWord 32 0x131BFFFF = some (.andi 3#4 1#4 0xFFFF#16) := by decide
theorem test_decode_or : decodeTableWord 32 0x031D0002 = some (.or 3#4 1#4 2#4) := by decide
theorem test_decode_ori : decodeTableWord 32 0x131D5678 = some (.ori 3#4 1#4 0x5678#16) := by decide
theorem test_decode_xor : decodeTableWord 32 0x031F0002 = some (.xor 3#4 1#4 2#4) := by decide
theorem test_decode_xori : decodeTableWord 32 0x131FFFFF = some (.xori 3#4 1#4 0xFFFF#16) := by decide
theorem test_decode_sll : decodeTableWord 32 0x031A0002 = some (.sll 3#4 1#4 2#4) := by decide
theorem test_decode_slli : decodeTableWord 32 0x131A0008 = some (.slli 3#4 1#4 0x0008#16) := by decide
theorem test_decode_srl : decodeTableWord 32 0x031C0002 = some (.srl 3#4 1#4 2#4) := by decide
theorem test_decode_srli : decodeTableWord 32 0x131C0008 = some (.srli 3#4 1#4 0x0008#16) := by decide
theorem test_decode_sra : decodeTableWord 32 0x031E0002 = some (.sra 3#4 1#4 2#4) := by decide
theorem test_decode_srai : decodeTableWord 32 0x131E0008 = some (.srai 3#4 1#4 0x0008#16) := by decide
theorem test_decode_slt : decodeTableWord 32 0x23100002 = some (.slt 3#4 1#4 2#4) := by decide
theorem test_decode_slti : decodeTableWord 32 0x3310FFFF = some (.slti 3#4 1#4 0xFFFF#16) := by decide
theorem test_decode_sltu : decodeTableWord 32 0x23110002 = some (.sltu 3#4 1#4 2#4) := by decide
theorem test_decode_sltui : decodeTableWord 32 0x3311FFFF = some (.sltui 3#4 1#4 0xFFFF#16) := by decide
theorem test_decode_sgt : decodeTableWord 32 0x23120002 = some (.sgt 3#4 1#4 2#4) := by decide
theorem test_decode_sgti : decodeTableWord 32 0x3312FFFF = some (.sgti 3#4 1#4 0xFFFF#16) := by decide
theorem test_decode_sgtu : decodeTableWord 32 0x23130002 = some (.sgtu 3#4 1#4 2#4) := by decide
theorem test_decode_sgtui : decodeTableWord 32 0x3313FFFF = some (.sgtui 3#4 1#4 0xFFFF#16) := by decide
theorem test_decode_sle : decodeTableWord 32 0x23140002 = some (.sle 3#4 1#4 2#4) := by decide
theorem test_decode_slei : decodeTableWord 32 0x3314FFFF = some (.slei 3#4 1#4 0xFFFF#16) := by decide
theorem test_decode_sleu : decodeTableWord 32 0x23150002 = some (.sleu 3#4 1#4 2#4) := by decide
theorem test_decode_sleui : decodeTableWord 32 0x3315FFFF = some (.sleui 3#4 1#4 0xFFFF#16) := by decide
theorem test_decode_sge : decodeTableWord 32 0x23160002 = some (.sge 3#4 1#4 2#4) := by decide
theorem test_decode_sgei : decodeTableWord 32 0x3316FFFF = some (.sgei 3#4 1#4 0xFFFF#16) := by decide
theorem test_decode_sgeu : decodeTableWord 32 0x23170002 = some (.sgeu 3#4 1#4 2#4) := by decide
theorem test_decode_sgeui : decodeTableWord 32 0x3317FFFF = some (.sgeui 3#4 1#4 0xFFFF#16) := by decide
theorem test_decode_seq : decodeTableWord 32 0x23180002 = some (.seq 3#4 1#4 2#4) := by decide
theorem test_decode_seqi : decodeTableWord 32 0x3318FFFF = some (.seqi 3#4 1#4 0xFFFF#16) := by decide
theorem test_decode_sequ : decodeTableWord 32 0x23190002 = some (.sequ 3#4 1#4 2#4) := by decide
theorem test_decode_sequi : decodeTableWord 32 0x3319FFFF = some (.sequi 3#4 1#4 0xFFFF#16) := by decide
theorem test_decode_sne : decodeTableWord 32 0x231A0002 = some (.sne 3#4 1#4 2#4) := by decide
theorem test_decode_snei : decodeTableWord 32 0x331AFFFF = some (.snei 3#4 1#4 0xFFFF#16) := by decide
theorem test_decode_sneu : decodeTableWord 32 0x231B0002 = some (.sneu 3#4 1#4 2#4) := by decide
theorem test_decode_sneui : decodeTableWord 32 0x331BFFFF = some (.sneui 3#4 1#4 0xFFFF#16) := by decide
theorem test_decode_j : decodeTableWord 32 0x40000010 = some (.j 0x00010#20) := by decide
theorem test_decode_jr : decodeTableWord 32 0x50F00000 = some (.jr 15#4) := by decide
theorem test_decode_jal : decodeTableWord 32 0x60000010 = some (.jal 0x00010#20) := by decide
theorem test_decode_jalr : decodeTableWord 32 0x70500000 = some (.jalr 5#4) := by decide
theorem test_decode_beqz : decodeTableWord 32 0xA0100003 = some (.beqz 1#4 0x00003#20) := by decide
theorem test_decode_bnez : decodeTableWord 32 0xB01FFFFD = some (.bnez 1#4 0xFFFFD#20) := by decide
theorem test_decode_lw : decodeTableWord 32 0x82100004 = some (.lw 2#4 1#4 0x00004#20) := by decide
theorem test_decode_sw : decodeTableWord 32 0x92100004 = some (.sw 2#4 1#4 0x00004#20) := by decide
theorem test_decode_movgs : decodeTableWord 32 0x391C0000 = some (.movgs 9#4 1#4) := by decide
theorem test_decode_movsg : decodeTableWord 32 0x319D0000 = some (.movsg 1#4 9#4) := by decide
theorem test_decode_brk : decodeTableWord 32 0x200C0000 = some .brk := by decide
theorem test_decode_syscall : decodeTableWord 32 0x200D0000 = some .syscall := by decide
theorem test_decode_rfe : decodeTableWord 32 0x200E0000 = some .rfe := by decide

/-! The "Decoding" table of 95_test_vectors.md: valid words at the ends of their fields, and illegal words. -/

theorem test_decode_ends_of_fields :
    decodeTableWord 32 0x00000000 = some (.add 0#4 0#4 0#4) ∧
    decodeTableWord 32 0x2FFB000F = some (.sneu 15#4 15#4 15#4) ∧
    decodeTableWord 32 0x1FFFFFFF = some (.xori 15#4 15#4 0xFFFF#16) ∧
    decodeTableWord 32 0x3FFBFFFF = some (.sneui 15#4 15#4 0xFFFF#16) ∧
    decodeTableWord 32 0x131AFFE8 = some (.slli 3#4 1#4 0xFFE8#16) ∧
    decodeTableWord 32 0x8FFFFFFF = some (.lw 15#4 15#4 0xFFFFF#20) ∧
    decodeTableWord 32 0x9FFFFFFF = some (.sw 15#4 15#4 0xFFFFF#20) := by decide
theorem test_decode_illegal_words :
    [0x03100012, 0x03101002, 0x2FFB00FF, 0x200F0000, 0x300F0000, 0x330F1234, 0x200C0001, 0x210C0000, 0x20FC0000,
      0x331E0000, 0x391C0001, 0x3FFCFFFF, 0x41000010, 0x40100010, 0x50F00001, 0x51F00000, 0xA1100003, 0xC1112345,
      0xD0000000, 0xE0000000, 0xF0000000, 0xFFFFFFFF].all (fun w => decodeTableWord 32 w == none) = true := by decide
theorem test_encode_words : encode (.add 3#4 1#4 2#4) = 0x03100002#32 ∧ encode (.lw 2#4 1#4 4#20) = 0x82100004#32 ∧
    encode .rfe = 0x200E0000#32 := by decide

/-! ### One step -/

/-- `$1`, `$2` and `$3` hold `a`, `b` and 0x55555555; all else is as after reset. -/
def regs (a b : Word) : State := ((State.reset.writeReg 1#4 a).writeReg 2#4 b).writeReg 3#4 0x55555555#32

/-- The outcome is a next state that passes a check. -/
def gives (o : Result) (p : State → Bool) : Bool :=
  match o with
  | .next t => p t
  | _ => false

/-- The outcome is a next state. -/
def isNext (o : Result) : Bool := gives o fun _ => true

theorem next_of_isNext {o : Result} (h : isNext o = true) : ∃ t, o = .next t := by
  cases o with
  | next t => exact ⟨t, rfl⟩
  | fault f => cases h
  | refused r => cases h

/-- One step of the word `w` at `s` gives a next state that passes a check. -/
def stepGives (s : State) (w : Nat) (p : State → Bool) : Bool := gives (step (s.withFetchWord 32 w)) p

/-- The step falls through with `v` in `$3`. -/
def result (w : Nat) (a b v : Word) : Bool :=
  stepGives (regs a b) w fun t => t.readReg 3#4 == v && t.pc == 1#20 && t.readReg 1#4 == a && t.readReg 2#4 == b

/-- The step traps with `$3` unchanged, the next address in `$ear` and the arithmetic bit in `$estat`. -/
def traps (w : Nat) (a b : Word) : Bool :=
  stepGives (regs a b) w fun t =>
    t.readReg 3#4 == 0x55555555#32 && t.pc == 0#20 && t.readSpr 9#4 == 1#32 && t.readSpr 5#4 == 0x8000#32

/-- Control register: interrupts on, user mode. -/
def user (c : Word) : State := State.reset.writeSpr 4#4 c

/-- The state at a program counter. -/
def atPc (s : State) (a : Addr) : State := s.setPc a

theorem test_add : result 0x03100002 0xFFFFFFFF#32 0x00000001#32 0x00000000#32 = true ∧
    traps 0x03100002 0x7FFFFFFF#32 0x00000001#32 = true := by decide
theorem test_addi : result 0x1310FFFF 0x00000005#32 0x00000000#32 0x00000004#32 = true ∧
    traps 0x13100001 0x7FFFFFFF#32 0x00000000#32 = true := by decide
theorem test_addu : result 0x03110002 0xFFFFFFFF#32 0x00000000#32 0xFFFFFFFF#32 = true ∧
    traps 0x03110002 0xFFFFFFFF#32 0x00000001#32 = true := by decide
theorem test_addui : result 0x1311FFFF 0x00000005#32 0x00000000#32 0x00010004#32 = true ∧
    traps 0x13110001 0xFFFFFFFF#32 0x00000000#32 = true := by decide
theorem test_sub : result 0x03120002 0x80000000#32 0x80000000#32 0x00000000#32 = true ∧
    traps 0x03120002 0x80000000#32 0x00000001#32 = true := by decide
theorem test_subi : result 0x1312FFFF 0x00000005#32 0x00000000#32 0x00000006#32 = true ∧
    traps 0x13120001 0x80000000#32 0x00000000#32 = true := by decide
theorem test_subu : result 0x03130002 0xFFFFFFFF#32 0xFFFFFFFF#32 0x00000000#32 = true ∧
    traps 0x03130002 0x00000005#32 0x00000007#32 = true := by decide
theorem test_subui : result 0x1313FFFF 0x00010000#32 0x00000000#32 0x00000001#32 = true ∧
    traps 0x13130007 0x00000005#32 0x00000000#32 = true := by decide
theorem test_mult : result 0x03140002 0xFFFFFFFF#32 0xFFFFFFFF#32 0x00000001#32 = true ∧
    traps 0x03140002 0x00010000#32 0x00008000#32 = true := by decide
theorem test_multi : result 0x1314FFFF 0x00000007#32 0x00000000#32 0xFFFFFFF9#32 = true ∧
    traps 0x13148000 0x00020000#32 0x00000000#32 = true := by decide
theorem test_multu : result 0x03150002 0xFFFFFFFF#32 0x00000001#32 0xFFFFFFFF#32 = true ∧
    traps 0x03150002 0x00010000#32 0x00010000#32 = true := by decide
theorem test_multui : result 0x1315FFFF 0x00000007#32 0x00000000#32 0x0006FFF9#32 = true ∧
    traps 0x1315FFFF 0x00010002#32 0x00000000#32 = true := by decide
theorem test_div : result 0x03160002 0xFFFFFFF9#32 0xFFFFFFFE#32 0x00000003#32 = true ∧
    traps 0x03160002 0x00000001#32 0x00000000#32 = true := by decide
theorem test_divi : result 0x13160002 0xFFFFFFF9#32 0x00000000#32 0xFFFFFFFD#32 = true ∧
    traps 0x13160000 0x00000064#32 0x00000000#32 = true := by decide
theorem test_divu : result 0x03170002 0xFFFFFFFF#32 0xFFFFFFFF#32 0x00000001#32 = true ∧
    traps 0x03170002 0x00000005#32 0x00000000#32 = true := by decide
theorem test_divui : result 0x1317FFFF 0xFFFFFFFF#32 0x00000000#32 0x00010001#32 = true ∧
    traps 0x13170000 0x00000064#32 0x00000000#32 = true := by decide
theorem test_rem : result 0x03180002 0xFFFFFFF9#32 0xFFFFFFFE#32 0xFFFFFFFF#32 = true ∧
    traps 0x03180002 0x00000001#32 0x00000000#32 = true := by decide
theorem test_remi : result 0x1318FFFE 0xFFFFFFF9#32 0x00000000#32 0xFFFFFFFF#32 = true ∧
    traps 0x13180000 0x00000064#32 0x00000000#32 = true := by decide
theorem test_remu : result 0x03190002 0xFFFFFFF9#32 0x00000002#32 0x00000001#32 = true ∧
    traps 0x03190002 0x00000005#32 0x00000000#32 = true := by decide
theorem test_remui : result 0x1319FFFF 0xFFFFFFFF#32 0x00000000#32 0x00000000#32 = true ∧
    traps 0x13190000 0x00000064#32 0x00000000#32 = true := by decide
theorem test_and : result 0x031B0002 0xF0F0F0F0#32 0xFF00FF00#32 0xF000F000#32 = true ∧
    result 0x031B0002 0xFFFFFFFF#32 0x00000000#32 0x00000000#32 = true := by decide
theorem test_andi : result 0x131BFFFF 0xFFFFFFFF#32 0x00000000#32 0x0000FFFF#32 = true ∧
    result 0x131BFF00 0x12345678#32 0x00000000#32 0x00005600#32 = true := by decide
theorem test_or : result 0x031D0002 0xF0F0F0F0#32 0x0F0F0000#32 0xFFFFF0F0#32 = true ∧
    result 0x031D0002 0x00000000#32 0x00000000#32 0x00000000#32 = true := by decide
theorem test_ori : result 0x131D8000 0xFFFF0000#32 0x00000000#32 0xFFFF8000#32 = true ∧
    result 0x131D5678 0x12340000#32 0x00000000#32 0x12345678#32 = true := by decide
theorem test_xor : result 0x031F0002 0xF0F0F0F0#32 0xFF00FF00#32 0x0FF00FF0#32 = true ∧
    result 0x031F0002 0x12345678#32 0x12345678#32 0x00000000#32 = true := by decide
theorem test_xori : result 0x131F8000 0xFFFFFFFF#32 0x00000000#32 0xFFFF7FFF#32 = true ∧
    result 0x131FFFFF 0x12345678#32 0x00000000#32 0x1234A987#32 = true := by decide
theorem test_sll : result 0x031A0002 0x80000001#32 0x00000001#32 0x00000002#32 = true ∧
    result 0x031A0002 0x12345678#32 0xFFFFFFE4#32 0x23456780#32 = true := by decide
theorem test_slli : result 0x131AFFE4 0x12345678#32 0x00000000#32 0x23456780#32 = true ∧
    result 0x131A001F 0x00000001#32 0x00000000#32 0x80000000#32 = true := by decide
theorem test_srl : result 0x031C0002 0x80000000#32 0x0000001F#32 0x00000001#32 = true ∧
    result 0x031C0002 0x80000001#32 0x00000001#32 0x40000000#32 = true := by decide
theorem test_srli : result 0x131C001F 0x80000000#32 0x00000000#32 0x00000001#32 = true ∧
    result 0x131C0010 0x12345678#32 0x00000000#32 0x00001234#32 = true := by decide
theorem test_sra : result 0x031E0002 0x80000000#32 0x0000001F#32 0xFFFFFFFF#32 = true ∧
    result 0x031E0002 0x80000000#32 0x00000004#32 0xF8000000#32 = true := by decide
theorem test_srai : result 0x131E001F 0x80000000#32 0x00000000#32 0xFFFFFFFF#32 = true ∧
    result 0x131E0010 0x80000000#32 0x00000000#32 0xFFFF8000#32 = true := by decide
theorem test_slt : result 0x23100002 0xFFFFFFFF#32 0x00000001#32 0x00000001#32 = true ∧
    result 0x23100002 0x00000001#32 0xFFFFFFFF#32 0x00000000#32 = true := by decide
theorem test_slti : result 0x3310FFFF 0xFFFFFFFE#32 0x00000000#32 0x00000001#32 = true ∧
    result 0x3310FFFF 0xFFFFFFFF#32 0x00000000#32 0x00000000#32 = true := by decide
theorem test_sltu : result 0x23110002 0x00000001#32 0xFFFFFFFF#32 0x00000001#32 = true ∧
    result 0x23110002 0xFFFFFFFF#32 0x00000001#32 0x00000000#32 = true := by decide
theorem test_sltui : result 0x33118000 0x00000000#32 0x00000000#32 0x00000001#32 = true ∧
    result 0x3311FFFF 0xFFFFFFFF#32 0x00000000#32 0x00000000#32 = true := by decide
theorem test_sgt : result 0x23120002 0x00000001#32 0xFFFFFFFF#32 0x00000001#32 = true ∧
    result 0x23120002 0xFFFFFFFF#32 0x00000001#32 0x00000000#32 = true := by decide
theorem test_sgti : result 0x3312FFFF 0x0000FFFF#32 0x00000000#32 0x00000001#32 = true ∧
    result 0x3312FFFF 0xFFFFFFFF#32 0x00000000#32 0x00000000#32 = true := by decide
theorem test_sgtu : result 0x23130002 0xFFFFFFFF#32 0x00000001#32 0x00000001#32 = true ∧
    result 0x23130002 0x00000001#32 0xFFFFFFFF#32 0x00000000#32 = true := by decide
theorem test_sgtui : result 0x3313FFFF 0xFFFFFFFF#32 0x00000000#32 0x00000001#32 = true ∧
    result 0x3313FFFF 0x0000FFFF#32 0x00000000#32 0x00000000#32 = true := by decide
theorem test_sle : result 0x23140002 0xFFFFFFFF#32 0x00000001#32 0x00000001#32 = true ∧
    result 0x23140002 0x00000001#32 0xFFFFFFFF#32 0x00000000#32 = true := by decide
theorem test_slei : result 0x3314FFFF 0xFFFFFFFF#32 0x00000000#32 0x00000001#32 = true ∧
    result 0x3314FFFF 0x0000FFFF#32 0x00000000#32 0x00000000#32 = true := by decide
theorem test_sleu : result 0x23150002 0x00000001#32 0xFFFFFFFF#32 0x00000001#32 = true ∧
    result 0x23150002 0xFFFFFFFF#32 0x00000001#32 0x00000000#32 = true := by decide
theorem test_sleui : result 0x3315FFFF 0x0000FFFF#32 0x00000000#32 0x00000001#32 = true ∧
    result 0x3315FFFF 0xFFFFFFFF#32 0x00000000#32 0x00000000#32 = true := by decide
theorem test_sge : result 0x23160002 0x00000001#32 0xFFFFFFFF#32 0x00000001#32 = true ∧
    result 0x23160002 0xFFFFFFFF#32 0x00000001#32 0x00000000#32 = true := by decide
theorem test_sgei : result 0x3316FFFF 0xFFFFFFFF#32 0x00000000#32 0x00000001#32 = true ∧
    result 0x3316FFFF 0xFFFFFFFE#32 0x00000000#32 0x00000000#32 = true := by decide
theorem test_sgeu : result 0x23170002 0xFFFFFFFF#32 0x00000001#32 0x00000001#32 = true ∧
    result 0x23170002 0x00000001#32 0xFFFFFFFF#32 0x00000000#32 = true := by decide
theorem test_sgeui : result 0x3317FFFF 0xFFFFFFFF#32 0x00000000#32 0x00000001#32 = true ∧
    result 0x33178000 0x00000000#32 0x00000000#32 0x00000000#32 = true := by decide
theorem test_seq : result 0x23180002 0x00000005#32 0x00000005#32 0x00000001#32 = true ∧
    result 0x23180002 0xFFFFFFFF#32 0x00000001#32 0x00000000#32 = true := by decide
theorem test_seqi : result 0x3318FFFF 0xFFFFFFFF#32 0x00000000#32 0x00000001#32 = true ∧
    result 0x3318FFFF 0xFFFFFFFE#32 0x00000000#32 0x00000000#32 = true := by decide
theorem test_sequ : result 0x23190002 0x00000005#32 0x00000005#32 0x00000001#32 = true ∧
    result 0x23190002 0xFFFFFFFF#32 0x00000001#32 0x00000000#32 = true := by decide
theorem test_sequi : result 0x3319FFFF 0x0000FFFF#32 0x00000000#32 0x00000001#32 = true ∧
    result 0x3319FFFF 0xFFFFFFFF#32 0x00000000#32 0x00000000#32 = true := by decide
theorem test_sne : result 0x231A0002 0xFFFFFFFF#32 0x00000001#32 0x00000001#32 = true ∧
    result 0x231A0002 0x00000005#32 0x00000005#32 0x00000000#32 = true := by decide
theorem test_snei : result 0x331AFFFF 0xFFFFFFFE#32 0x00000000#32 0x00000001#32 = true ∧
    result 0x331AFFFF 0xFFFFFFFF#32 0x00000000#32 0x00000000#32 = true := by decide
theorem test_sneu : result 0x231B0002 0xFFFFFFFF#32 0x00000001#32 0x00000001#32 = true ∧
    result 0x231B0002 0x00000005#32 0x00000005#32 0x00000000#32 = true := by decide
theorem test_sneui : result 0x331BFFFF 0xFFFFFFFF#32 0x00000000#32 0x00000001#32 = true ∧
    result 0x331BFFFF 0x0000FFFF#32 0x00000000#32 0x00000000#32 = true := by decide
theorem test_lhi : result 0x330E1234 0 0 0x12340000#32 = true ∧ result 0x330EFFFF 0 0 0xFFFF0000#32 = true := by decide
theorem test_la : stepGives State.reset 0xC10FFFFF (fun t => t.readReg 1#4 == 0x000FFFFF#32) = true := by decide
theorem test_write_to_register_zero : stepGives State.reset 0x300E1234 (fun t => t.readReg 0#4 == 0#32 && t.pc == 1#20) = true := by
  decide
theorem test_j : stepGives State.reset 0x400FFFFF (fun t => t.pc == 0xFFFFF#20) = true := by decide
theorem test_jr : stepGives (regs 0xFFF00010#32 0) 0x50100000 (fun t => t.pc == 0x00010#20) = true := by decide
theorem test_jal : stepGives (atPc State.reset 0x00002#20) 0x60000010
      (fun t => t.pc == 0x00010#20 && t.readReg 15#4 == 3#32) = true ∧
    stepGives (atPc State.reset 0xFFFFF#20) 0x60000010 (fun t => t.pc == 0x00010#20 && t.readReg 15#4 == 0#32) = true := by decide
theorem test_jalr : stepGives (atPc (State.reset.writeReg 5#4 0x100#32) 0x00020#20) 0x70500000
      (fun t => t.pc == 0x00100#20 && t.readReg 15#4 == 0x21#32) = true := by decide
theorem test_beqz : stepGives (atPc (regs 0 0) 0x00010#20) 0xA0100003 (fun t => t.pc == 0x00014#20) = true ∧
    stepGives (atPc (regs 1 0) 0x00010#20) 0xA0100003 (fun t => t.pc == 0x00011#20) = true := by decide
theorem test_beqz_wraps : stepGives (atPc (regs 0 0) 0xFFFFF#20) 0xA0100005 (fun t => t.pc == 0x00005#20) = true ∧
    stepGives (atPc (regs 0 0) 0x80000#20) 0xA017FFFF (fun t => t.pc == 0x00000#20) = true := by decide
theorem test_bnez : stepGives (atPc (regs 9 0) 0x00004#20) 0xB01FFFFD (fun t => t.pc == 0x00002#20) = true ∧
    stepGives (atPc (regs 0 0) 0x00004#20) 0xB01FFFFD (fun t => t.pc == 0x00005#20) = true := by decide
theorem test_bnez_wraps : stepGives (regs 1 0) 0xB01FFFFE (fun t => t.pc == 0xFFFFF#20) = true ∧
    stepGives (atPc (regs 0x00100000#32 0) 0x80000#20) 0xB0180000 (fun t => t.pc == 0x00001#20) = true := by decide

/-- A state with one word stored. -/
def withWord (s : State) (a : Addr) (v : Word) : State := s.setMem (Memory.setWord s.mem a v)

theorem test_lw : stepGives (withWord (regs 0x100#32 0) 0x00104#20 0xDEADBEEF#32) 0x82100004
      (fun t => t.readReg 2#4 == 0xDEADBEEF#32 && t.pc == 1#20) = true ∧
    stepGives (withWord (regs 0x200#32 0) 0x00200#20 0x33#32) 0x81100000 (fun t => t.readReg 1#4 == 0x33#32) = true := by decide
theorem test_lw_wraps : stepGives (withWord State.reset 0xFFFFF#20 0x22#32) 0x820FFFFF (fun t => t.readReg 2#4 == 0x22#32) = true ∧
    stepGives (regs 0x00080001#32 0) 0x8217FFFF (fun t => t.readReg 2#4 == 0x8217FFFF#32) = true := by decide
theorem test_sw : stepGives (regs 0x100#32 0x2A#32) 0x92100004 (fun t => Memory.word t.mem 0x00104#20 == 0x2A#32) = true ∧
    stepGives (regs 2#32 0x77#32) 0x921FFFFC (fun t => Memory.word t.mem 0xFFFFE#20 == 0x77#32) = true := by decide
theorem test_sw_into_next_instruction : stepGives (regs 0 0x40000001#32) 0x92000001
      (fun t => gives (step t) fun u => u.pc == 1#20) = true := by decide
theorem test_syscall : stepGives (atPc (State.reset.writeSpr 8#4 0x40#32) 0x00010#20) 0x200D0000
      (fun t => t.pc == 0x00040#20 && t.readSpr 9#4 == 0x11#32 && t.readSpr 5#4 == 0x2000#32 && t.readSpr 4#4 == 0x0000000C#32) = true := by
  decide
theorem test_syscall_from_user_mode : gives (exec .syscall (atPc (user 0x2#32) 0x00021#20))
      (fun t => t.readSpr 4#4 == 0x00000009#32 && t.readSpr 9#4 == 0x22#32) = true := by decide
theorem test_brk : stepGives (atPc State.reset 0xFFFFF#20) 0x200C0000
      (fun t => t.readSpr 9#4 == 0#32 && t.readSpr 5#4 == 0x4000#32) = true := by decide
theorem test_rfe : stepGives (atPc ((State.reset.writeSpr 4#4 0x9#32).writeSpr 9#4 0xABC00022#32) 0x00044#20) 0x200E0000
      (fun t => t.pc == 0x00022#20 && t.readSpr 4#4 == 0x00000003#32 && t.readSpr 9#4 == 0xABC00022#32) = true := by decide
theorem test_rfe_in_user_mode : gives (exec .rfe (atPc (user 0x2#32) 0x00030#20))
      (fun t => t.readSpr 4#4 == 0x00000009#32 && t.readSpr 9#4 == 0x31#32 && t.readSpr 5#4 == 0x1000#32) = true := by decide
theorem test_movgs : stepGives (regs 0x40#32 0) 0x391C0000 (fun t => t.readSpr 9#4 == 0x40#32 && t.pc == 1#20) = true := by decide
theorem test_movgs_control : stepGives (regs 0x00000FF2#32 0) 0x341C0000
      (fun t => t.ie && t.ku == .user && !t.oie && t.irqMask == 0xFF#8) = true := by decide
theorem test_movsg : stepGives (State.reset.writeSpr 9#4 0x123#32) 0x319D0000 (fun t => t.readReg 1#4 == 0x123#32) = true ∧
    gives (exec (.movsg 1#4 6#4) (State.reset.writeSpr 6#4 0x7#32)) (fun t => t.readReg 1#4 == 0x7#32) = true := by decide
theorem test_movsg_in_user_mode : gives (exec (.movsg 1#4 9#4) (atPc (user 0#32) 0x00030#20))
      (fun t => t.readReg 1#4 == 0#32 && t.readSpr 4#4 == 0x00000008#32 && t.readSpr 9#4 == 0x31#32) = true := by decide
theorem test_illegal_word : stepGives State.reset 0xFFFFFFFF (fun t => t.readSpr 9#4 == 1#32 && t.readSpr 5#4 == 0x1000#32) = true := by
  decide
theorem test_interrupt_entry : ((atPc (user 0x2#32) 0x00050#20).trapEntry (.interrupt 0x81#8) 0x00050#20).sprs.toList =
    [0, 0, 0, 0, 0x00000009#32, 0x00000810#32, 0, 0, 0, 0x50#32, 0, 0, 0, 0, 0, 0] := by decide
theorem test_interrupts_off : stepGives { State.reset with pending := 0xFF#8 } 0x00000000 (fun t => t.pc == 1#20) = true := by decide
theorem test_save_r13 : ((State.reset.writeReg 13#4 7#32).saveR13 (some ⟨11#4, false⟩)).readSpr 11#4 = 7#32 ∧
    ((State.reset.writeSpr 11#4 9#32).restoreR13 (some ⟨11#4, true⟩)).readReg 13#4 = 9#32 := by decide

/-! ### Witnesses: for each statement with hypotheses, a state and operands that meet them -/

theorem witness_EncodeOfDecodedWordIsTheWord : decode 0x03100002#32 = .ok (.add 3#4 1#4 2#4) := rfl
theorem witness_DecodeFollowsTheOpcodeTable : decode 0x200E0000#32 = .ok .rfe ∧
    (⟨0xFFFFFFFF#32, 0x200E0000#32⟩ : OpcodeRow) ∈ opcodeRows ∧ 0x200E0000#32 &&& 0xFFFFFFFF#32 = 0x200E0000#32 :=
  ⟨rfl, by decide, by decide⟩
theorem witness_OpcodeRowsAreDisjoint : (⟨0xF0000000#32, 0x80000000#32⟩ : OpcodeRow) ∈ opcodeRows ∧
    0x8FFFFFFF#32 &&& 0xF0000000#32 = 0x80000000#32 := by decide
theorem witness_UnusedEncodingsAreRejected : fieldOp 0xD0000000#32 = 0xD#4 ∧ fieldOp 0xE0000000#32 = 0xE#4 ∧
    fieldOp 0xFFFFFFFF#32 = 0xF#4 ∧ fieldOp 0x200F0000#32 = 0x2#4 ∧ fieldFunc 0x200F0000#32 = 0xF#4 ∧
    fieldOp 0x3FFFFFFF#32 = 0x3#4 ∧ fieldFunc 0x3FFFFFFF#32 = 0xF#4 := by decide

/-- A state whose step runs the word `w` at address 0. -/
def running (w : Nat) : State := State.reset.withFetchWord 32 w

theorem witness_EveryStepKeepsMemoryCanonical : ∃ t, Machine.Inv (running 0x92000001) ∧ step (running 0x92000001) = .next t := by
  obtain ⟨t, h⟩ := next_of_isNext (o := step (running 0x92000001)) (by decide)
  exact ⟨t, by unfold Machine.Inv; decide, h⟩
theorem witness_OnlyAStoreChangesMemory_StepKeepsTheSurroundings : ∃ t, step (running 0x92000001) = .next t :=
  next_of_isNext (by decide)

theorem witness_SignedSumDifferenceProductAreExact :
    FitsSigned (((regs 0x7FFFFFFE#32 1#32).readReg 1#4).toInt + ((regs 0x7FFFFFFE#32 1#32).readReg 2#4).toInt) ∧
    FitsSigned (((regs 0x80000001#32 0).readReg 1#4).toInt + (0xFFFF#16).toInt) ∧
    FitsSigned (((regs 0x80000001#32 1#32).readReg 1#4).toInt - ((regs 0x80000001#32 1#32).readReg 2#4).toInt) ∧
    FitsSigned (((regs 0x7FFFFFFE#32 0).readReg 1#4).toInt - (0xFFFF#16).toInt) ∧
    FitsSigned (((regs 0x10000#32 0xFFFF8000#32).readReg 1#4).toInt * ((regs 0x10000#32 0xFFFF8000#32).readReg 2#4).toInt) ∧
    FitsSigned (((regs 0x10000#32 0).readReg 1#4).toInt * (0x8000#16).toInt) := by decide
theorem witness_SignedOverflowTraps :
    ¬ FitsSigned (((regs 0x7FFFFFFF#32 1#32).readReg 1#4).toInt + ((regs 0x7FFFFFFF#32 1#32).readReg 2#4).toInt) ∧
    ¬ FitsSigned (((regs 0x80000000#32 0).readReg 1#4).toInt + (0xFFFF#16).toInt) ∧
    ¬ FitsSigned (((regs 0 0x80000000#32).readReg 1#4).toInt - ((regs 0 0x80000000#32).readReg 2#4).toInt) ∧
    ¬ FitsSigned (((regs 0x7FFFFFFF#32 0).readReg 1#4).toInt - (0xFFFF#16).toInt) ∧
    ¬ FitsSigned (((regs 0x10000#32 0x8000#32).readReg 1#4).toInt * ((regs 0x10000#32 0x8000#32).readReg 2#4).toInt) ∧
    ¬ FitsSigned (((regs 0x80000000#32 0).readReg 1#4).toInt * (0xFFFF#16).toInt) := by decide
theorem witness_UnsignedSumDifferenceProductAreExact :
    FitsUnsigned ((((regs 0xFFFFFFFE#32 1#32).readReg 1#4).toNat : Int) + ((regs 0xFFFFFFFE#32 1#32).readReg 2#4).toNat) ∧
    FitsUnsigned ((((regs 0xFFFF0000#32 0).readReg 1#4).toNat : Int) + (0xFFFF#16).toNat) ∧
    FitsUnsigned ((((regs 7#32 7#32).readReg 1#4).toNat : Int) - ((regs 7#32 7#32).readReg 2#4).toNat) ∧
    FitsUnsigned ((((regs 0xFFFF#32 0).readReg 1#4).toNat : Int) - (0xFFFF#16).toNat) ∧
    FitsUnsigned ((((regs 0xFFFF#32 0x10001#32).readReg 1#4).toNat : Int) * ((regs 0xFFFF#32 0x10001#32).readReg 2#4).toNat) ∧
    FitsUnsigned ((((regs 0x10001#32 0).readReg 1#4).toNat : Int) * (0xFFFF#16).toNat) := by decide
theorem witness_UnsignedOverflowTraps :
    ¬ FitsUnsigned ((((regs 0xFFFFFFFF#32 1#32).readReg 1#4).toNat : Int) + ((regs 0xFFFFFFFF#32 1#32).readReg 2#4).toNat) ∧
    ¬ FitsUnsigned ((((regs 0xFFFF0001#32 0).readReg 1#4).toNat : Int) + (0xFFFF#16).toNat) ∧
    ¬ FitsUnsigned ((((regs 0 1#32).readReg 1#4).toNat : Int) - ((regs 0 1#32).readReg 2#4).toNat) ∧
    ¬ FitsUnsigned ((((regs 0xFFFE#32 0).readReg 1#4).toNat : Int) - (0xFFFF#16).toNat) ∧
    ¬ FitsUnsigned ((((regs 0x10000#32 0x10000#32).readReg 1#4).toNat : Int) * ((regs 0x10000#32 0x10000#32).readReg 2#4).toNat) ∧
    ¬ FitsUnsigned ((((regs 0x10002#32 0).readReg 1#4).toNat : Int) * (0xFFFF#16).toNat) := by decide
theorem witness_SignedQuotientAndRemainder :
    (regs 0x80000000#32 1#32).readReg 2#4 ≠ 0#32 ∧
    ¬ SignedDivisionCorner ((regs 0x80000000#32 1#32).readReg 1#4).toInt ((regs 0x80000000#32 1#32).readReg 2#4).toInt ∧
    (0xFFFF#16 : Imm16) ≠ 0#16 ∧ ¬ SignedDivisionCorner ((regs 0x80000001#32 0).readReg 1#4).toInt (0xFFFF#16).toInt := by decide
theorem witness_UnsignedQuotientAndRemainder : (regs 0xFFFFFFFF#32 1#32).readReg 2#4 ≠ 0#32 ∧ (1#16 : Imm16) ≠ 0#16 := by decide
theorem witness_DivisionByZeroTraps : (regs 1#32 0).readReg 2#4 = 0#32 ∧ State.reset.readReg 0#4 = 0#32 := by decide
theorem witness_SignedDivisionCornerIsTheOpenParameter :
    SignedDivisionCorner ((regs 0x80000000#32 0xFFFFFFFF#32).readReg 1#4).toInt
      ((regs 0x80000000#32 0xFFFFFFFF#32).readReg 2#4).toInt ∧
    SignedDivisionCorner ((regs 0x80000000#32 0).readReg 1#4).toInt (0xFFFF#16).toInt := by decide
theorem witness_DivisionIdentity : ∃ a b c d,
    (3#4 : RegId) ≠ 0#4 ∧ (regs 0xFFFFFFF9#32 2#32).readReg 2#4 ≠ 0#32 ∧
    exec (.divu 3#4 1#4 2#4) (regs 0xFFFFFFF9#32 2#32) = .next a ∧ exec (.remu 3#4 1#4 2#4) (regs 0xFFFFFFF9#32 2#32) = .next b ∧
    ¬ SignedDivisionCorner ((regs 0xFFFFFFF9#32 2#32).readReg 1#4).toInt ((regs 0xFFFFFFF9#32 2#32).readReg 2#4).toInt ∧
    exec (.div 3#4 1#4 2#4) (regs 0xFFFFFFF9#32 2#32) = .next c ∧ exec (.rem 3#4 1#4 2#4) (regs 0xFFFFFFF9#32 2#32) = .next d := by
  obtain ⟨a, ha⟩ := next_of_isNext (o := exec (.divu 3#4 1#4 2#4) (regs 0xFFFFFFF9#32 2#32)) (by decide)
  obtain ⟨b, hb⟩ := next_of_isNext (o := exec (.remu 3#4 1#4 2#4) (regs 0xFFFFFFF9#32 2#32)) (by decide)
  obtain ⟨c, hc⟩ := next_of_isNext (o := exec (.div 3#4 1#4 2#4) (regs 0xFFFFFFF9#32 2#32)) (by decide)
  obtain ⟨d, hd⟩ := next_of_isNext (o := exec (.rem 3#4 1#4 2#4) (regs 0xFFFFFFF9#32 2#32)) (by decide)
  exact ⟨a, b, c, d, by decide, by decide, ha, hb, by decide, hc, hd⟩
theorem witness_JumpAndLink : (14#4 : RegId) ≠ 15#4 ∧ (0#4 : RegId) ≠ 15#4 := by decide
theorem witness_LoadWordInKernelMode_StoreWordInKernelMode : State.reset.ku = .kernel ∧
    kindAt State.reset.memMap (effectiveAddr (State.reset.readReg 0#4) 0#20) = .ram ∧
    kindAt State.reset.memMap (effectiveAddr (State.reset.readReg 0#4) 0xFFFFF#20) = .ram := by decide

/-- The last word of the address space is a device. -/
def withDevice : State := { State.reset with memMap := [⟨1048575, 1, .device⟩, ⟨0, 1048575, .ram⟩] }
/-- Nothing is at the last word of the address space. -/
def withHole : State := { State.reset with memMap := [⟨0, 1048575, .ram⟩] }

theorem witness_DeviceAccessesInKernelMode : withDevice.ku = .kernel ∧
    kindAt withDevice.memMap (effectiveAddr (withDevice.readReg 0#4) 0xFFFFF#20) = .device ∧
    (atPc withDevice 0xFFFFF#20).ku = .kernel ∧ (atPc withDevice 0xFFFFF#20).deliverable = 0#8 ∧
    kindAt (atPc withDevice 0xFFFFF#20).memMap (atPc withDevice 0xFFFFF#20).pc = .device := by decide
theorem witness_UnmappedAccessStops : withHole.ku = .kernel ∧
    kindAt withHole.memMap (effectiveAddr (withHole.readReg 0#4) 0xFFFFF#20) = .unmapped ∧
    (atPc withHole 0xFFFFF#20).ku = .kernel ∧ (atPc withHole 0xFFFFF#20).deliverable = 0#8 ∧
    kindAt (atPc withHole 0xFFFFF#20).memMap (atPc withHole 0xFFFFF#20).pc = .unmapped := by decide

theorem kindAt_reset (a : Addr) : kindAt resetMemMap a = .ram := by
  have := a.isLt
  simp [kindAt, resetMemMap]
  omega

/-- User mode, with nothing at any address. -/
def userNowhere : State := { user 0#32 with memMap := [] }

theorem witness_UserAccessesGoThroughUserAccess : (user 0#32).ku = .user ∧ (user 0#32).deliverable = 0#8 ∧
    (∀ p, ∃ v u, (user 0#32).memRead p = .done v u) ∧ (∀ p v, ∃ u, (user 0#32).memWrite p v = .done () u) ∧
    userNowhere.ku = .user ∧ userNowhere.deliverable = 0#8 ∧ ∀ p, kindAt userNowhere.memMap p = .unmapped := by
  have h : ∀ p, kindAt (user 0#32).memMap p = .ram := kindAt_reset
  refine ⟨by decide, by decide, fun p => ?_, fun p v => ?_, by decide, by decide, fun _ => rfl⟩
  · refine ⟨Memory.word (user 0#32).mem p, user 0#32, ?_⟩
    simp only [State.memRead, h p]
  · refine ⟨(user 0#32).setMem (Memory.setWord (user 0#32).mem p v), ?_⟩
    simp only [State.memWrite, h p]
theorem witness_LoadReturnsTheLastStore : (regs 0x100#32 0x2A#32).ku = .kernel ∧
    kindAt (regs 0x100#32 0x2A#32).memMap (effectiveAddr ((regs 0x100#32 0x2A#32).readReg 1#4) 4#20) = .ram ∧
    gives (exec (.sw 2#4 1#4 4#20) (regs 0x100#32 0x2A#32)) (fun t =>
      decide (kindAt t.memMap (effectiveAddr (t.readReg 1#4) 4#20) = .ram) &&
      decide (kindAt t.memMap (effectiveAddr (t.readReg 1#4) 5#20) = .ram) &&
      effectiveAddr (t.readReg 1#4) 5#20 != 0x00104#20) = true := by decide
theorem witness_StoreIsSeenByTheNextFetch : State.reset.ku = .kernel ∧
    kindAt State.reset.memMap (effectiveAddr (State.reset.readReg 0#4) 1#20) = .ram ∧
    effectiveAddr (State.reset.readReg 0#4) 1#20 = State.reset.pc + 1#20 := by decide
theorem witness_MoveToSpecialRegister : State.reset.ku = .kernel ∧ sprImplemented 4#4 = true ∧ sprImplemented 13#4 = true := by decide
theorem witness_MoveFromSpecialRegister : State.reset.ku = .kernel ∧ sprImplemented 4#4 = true ∧ sprImplemented 13#4 = true ∧
    (running 0x316D0000).sampleInterrupt = .notTaken (running 0x316D0000) ∧
    (running 0x316D0000).fetch = .done 0x316D0000#32 (running 0x316D0000) ∧ (running 0x316D0000).ku = .kernel ∧
    decode 0x316D0000#32 = .ok (.movsg 1#4 6#4) :=
  ⟨by decide, by decide, by decide, rfl, rfl, by decide, rfl⟩
theorem witness_ControlRegisterWriteSetsTheControlBits_ReturnFromException : State.reset.ku = .kernel := by decide
theorem witness_PrivilegedInstructionsTrapInUserMode : (user 0#32).ku = .user := by decide
theorem witness_UnimplementedSpecialRegisterIsRefused : State.reset.ku = .kernel ∧ sprImplemented 3#4 = false ∧
    sprImplemented 14#4 = false := by decide
theorem witness_StepRunsDecodedInstruction :
    (running 0x03100002).sampleInterrupt = .notTaken (running 0x03100002) ∧
    (running 0x03100002).fetch = .done 0x03100002#32 (running 0x03100002) ∧
    decode 0x03100002#32 = .ok (.add 3#4 1#4 2#4) ∧ (running 0x03100002).deliverable = 0#8 ∧ (running 0x03100002).ku = .kernel ∧
    kindAt (running 0x03100002).memMap (running 0x03100002).pc = .ram ∧
    decode (Memory.word (running 0x03100002).mem (running 0x03100002).pc) = .ok (.add 3#4 1#4 2#4) ∧
    (∀ rd : RegId, Instr.add 3#4 1#4 2#4 ≠ .movsg rd 6#4 ∧ Instr.add 3#4 1#4 2#4 ≠ .movsg rd 7#4) ∧ (user 0#32).ku = .user :=
  ⟨rfl, rfl, rfl, by decide, by decide, by decide, rfl, fun _ => ⟨nofun, nofun⟩, by decide⟩
theorem witness_IllegalWordTraps : (running 0xFFFFFFFF).sampleInterrupt = .notTaken (running 0xFFFFFFFF) ∧
    (running 0xFFFFFFFF).fetch = .done 0xFFFFFFFF#32 (running 0xFFFFFFFF) ∧ decode 0xFFFFFFFF#32 = .error .unusedOpcode :=
  ⟨rfl, rfl, rfl⟩

/-- Interrupts on in kernel mode, line 0 unmasked, the lines of `p` pending. -/
def interruptible (p : BitVec 8) : State := { user 0x1A#32 with pending := p }

theorem witness_InterruptsBetweenInstructions : State.reset.ie = false ∧
    (interruptible 0xFE#8).pending &&& (interruptible 0xFE#8).irqMask = 0#8 ∧ (interruptible 0xFE#8).ie = true ∧
    (interruptible 0x01#8).ie = true ∧ (interruptible 0x01#8).pending &&& (interruptible 0x01#8).irqMask ≠ 0#8 := by decide

/-- Memory with a zero word, the instruction `add $0, $0, $0`, at the first `n` addresses. -/
def zeros : Nat → Memory
  | 0 => []
  | n + 1 => Memory.setWord (zeros n) (BitVec.ofNat 20 n) 0#32

theorem word_zeros (n : Nat) (a : Addr) (h : a.toNat < n) (hn : n ≤ 1048576) : Memory.word (zeros n) a = 0#32 := by
  induction n with
  | zero => omega
  | succ n ih =>
    by_cases e : a = BitVec.ofNat 20 n
    · rw [zeros, e, Memory.word_setWord_same]
    · rw [zeros, Memory.word_setWord_other _ _ _ _ e]
      refine ih ?_ (by omega)
      have : a.toNat ≠ n := fun h => e (by rw [← h]; simp)
      omega

theorem exists_zeros : ∃ m : Memory, ∀ a : Addr, Memory.word m a = 0#32 := by
  have h : ∀ n, n = 1048576 → ∃ m : Memory, ∀ a : Addr, Memory.word m a = 0#32 := fun n hn =>
    ⟨zeros n, fun a => word_zeros n a (by have := a.isLt; omega) (by omega)⟩
  exact h _ rfl

/-- Whatever UserAccess answers, a step in user mode over a memory of zero words completes. -/
theorem witness_UserModeChangesSpecialRegistersOnlyByTrap : ∃ s t, s.ku = .user ∧ step s = .next t := by
  obtain ⟨m, h0⟩ := exists_zeros
  refine ⟨(user 0#32).setMem m, ?_⟩
  have hu : ((user 0#32).setMem m).ku = .user := by
    show (user 0#32).ku = .user
    decide
  have hd : ((user 0#32).setMem m).deliverable = 0#8 := by
    show (user 0#32).deliverable = 0#8
    decide
  have hi : decode 0#32 = .ok (.add 0#4 0#4 0#4) := rfl
  have hk : ∀ p, kindAt ((user 0#32).setMem m).memMap p = .ram := kindAt_reset
  have hw : ∀ p, Memory.word ((user 0#32).setMem m).mem p = 0#32 := h0
  cases ha : Config.userAccess ((user 0#32).setMem m).sprs ((user 0#32).setMem m).mem ((user 0#32).setMem m).pc .fetch with
  | violation =>
    refine ⟨((user 0#32).setMem m).fetchViolation, hu, ?_⟩
    simp only [step, State.sampleInterrupt, hd, if_pos, instructionStep, State.fetch, State.load, translate_user _ _ _ hu, ha]
  | physical p =>
    obtain ⟨t, ht⟩ : ∃ t, exec (.add 0#4 0#4 0#4) ((user 0#32).setMem m) = .next t := ⟨_, rfl⟩
    refine ⟨t, hu, ?_⟩
    simp only [step, State.sampleInterrupt, hd, if_pos, instructionStep, State.fetch, State.load, translate_user _ _ _ hu, ha,
      State.memRead, hk p, hw p, hi, State.countedFor, counterRead, ht]

theorem witness_UserModeIsEnteredOnlyByRfeOrControlWrite : ∃ t, (running 0x200E0000).ku = .kernel ∧
    step (running 0x200E0000) = .next t ∧ t.ku = .user := by
  refine ⟨_, by decide, rfl, by decide⟩

theorem witness_MachineNeverStopsWhereMemoryIsMapped : MapTotal (running 0x00000000) ∧
    FetchesWellFormed (running 0x00000000) ∧ FetchesWellFormed (running 0x00000000).drawn := by
  refine ⟨fun a => ?_, fun w t i hf hd => ?_, fun w t i hf hd => ?_⟩
  · have h : kindAt (running 0x00000000).memMap a = .ram := kindAt_reset a
    rw [h]
    decide
  · have h : (running 0x00000000).fetch = .done 0#32 (running 0x00000000) := rfl
    rw [h] at hf
    injection hf with hf
    subst hf
    injection hd with hd
    subst hd
    rfl
  · have h : (running 0x00000000).drawn.fetch = .done 0#32 (running 0x00000000).drawn := rfl
    rw [h] at hf
    injection hf with hf
    subst hf
    injection hd with hd
    subst hd
    rfl
theorem witness_WellFormedInstructionsAreNeverRefused : WellFormed (.add 3#4 1#4 2#4) ∧ ¬ WellFormed (.jalr 15#4) ∧
    ¬ WellFormed (.movgs 3#4 1#4) ∧ ¬ WellFormed (.movsg 1#4 14#4) ∧ State.reset.ku = .kernel := by decide
theorem witness_ExceptionFreeInstructionsKeepSpecialRegisters : ∃ t, State.reset.ku = .kernel ∧
    neverTrapsInKernel (.sw 2#4 1#4 0#20) = true ∧ exec (.sw 2#4 1#4 0#20) State.reset = .next t := by
  obtain ⟨t, h⟩ := next_of_isNext (o := exec (.sw 2#4 1#4 0#20) State.reset) (by decide)
  exact ⟨t, by decide, by decide, h⟩

end Sys2Proof.Tests
end

section
/-! PROOFS. The constant loads of 40_arithmetic.md: `lhi` and `la`. -/

namespace Sys2Proof.Machine

/-! ### Operands -/

/-- The sixteen zero bits below the immediate are a multiplication by 2^16 (R68, R120). -/
theorem highImmediate_toNat (imm : Imm16) : (highImmediate imm).toNat = imm.toNat * 2 ^ 16 := by
  rw [highImmediate, BitVec.toNat_append, Nat.shiftLeft_eq, BitVec.toNat_ofNat, Nat.zero_mod, Nat.or_zero]

theorem highImmediate_eq_ofNat (imm : Imm16) : highImmediate imm = BitVec.ofNat 32 (imm.toNat * 2 ^ 16) := by
  rw [← highImmediate_toNat, BitVec.ofNat_toNat, BitVec.setWidth_eq]

theorem zext20_eq_ofNat (addr : Addr) : zext20 addr = BitVec.ofNat 32 addr.toNat :=
  (BitVec.ofNat_toNat 32 addr).symm

/-! ### Words -/

theorem decode_lhi_word (rd : RegId) (imm : Imm16) :
    decode (wordI 0b0011#4 0b1110#4 rd 0b0000#4 imm) = .ok (.lhi rd imm) := by
  simp [decode, decodeOp3, requireZero]

theorem decode_la_word (rd : RegId) (addr : Imm20) :
    decode (wordJ 0b1100#4 rd 0b0000#4 addr) = .ok (.la rd addr) := by
  simp [decode, requireZero]

/-! ### Meanings -/

theorem exec_lhi (rd : RegId) (imm : Imm16) (s : State) : exec (.lhi rd imm) s = s.writeNext rd (highImmediate imm) := rfl

theorem exec_la (rd : RegId) (addr : Imm20) (s : State) : exec (.la rd addr) s = s.writeNext rd (zext20 addr) := rfl

/-- Settles O21: both instructions end in `State.writeNext`, whose whole effect `writeNext_spec` says; what is left is the
decoding of their words and the number their operand stands for. -/
theorem loadHighAndLoadAddress : Obligations.LoadHighAndLoadAddress := by
  intro s rd imm addr
  refine ⟨decode_lhi_word rd imm, ?lhi, decode_la_word rd addr, ?la⟩
  case lhi =>
    rw [exec_lhi, highImmediate_eq_ofNat]
    exact writeNext_spec s rd _
  case la =>
    rw [exec_la, zext20_eq_ofNat]
    exact writeNext_spec s rd _

end Sys2Proof.Machine
end

section
/-! PROOFS. The bitwise instructions of 41_bitwise.md: `and`, `or`, `xor` and the shifts, with their immediate forms. -/

namespace Sys2Proof.Machine

/-! ### Operands -/

theorem zext16_eq_ofNat (imm : Imm16) : zext16 imm = BitVec.ofNat 32 imm.toNat :=
  (BitVec.ofNat_toNat 32 imm).symm

/-- The low five bits of a register are its value modulo 32 (R68, R129 (b)). -/
theorem shiftAmount_eq_mod (v : Word) : shiftAmount v = v.toNat % 32 := by
  rw [shiftAmount, BitVec.extractLsb'_toNat, Nat.shiftRight_zero]

/-- The low five bits of the immediate are its value modulo 32 (R68, R129 (b)). -/
theorem shiftAmountImm_eq_mod (imm : Imm16) : shiftAmountImm imm = imm.toNat % 32 := by
  rw [shiftAmountImm, BitVec.extractLsb'_toNat, Nat.shiftRight_zero]

/-! ### Shifts as arithmetic on exact integers -/

theorem shiftLeft_eq_ofNat (v : Word) (n : Nat) : shiftLeft v n = BitVec.ofNat 32 (v.toNat * 2 ^ n) := by
  apply BitVec.eq_of_toNat_eq
  rw [shiftLeft, BitVec.toNat_shiftLeft, Nat.shiftLeft_eq, BitVec.toNat_ofNat]

theorem shiftRightLogical_eq_ofNat (v : Word) (n : Nat) :
    shiftRightLogical v n = BitVec.ofNat 32 (v.toNat / 2 ^ n) := by
  rw [← Nat.shiftRight_eq_div_pow, ← BitVec.toNat_ushiftRight, BitVec.ofNat_toNat, BitVec.setWidth_eq, shiftRightLogical]

theorem shiftRightArithmetic_eq_ofInt (v : Word) (n : Nat) :
    shiftRightArithmetic v n = BitVec.ofInt 32 (v.toInt / 2 ^ n) := by
  rw [shiftRightArithmetic, BitVec.sshiftRight, Int.shiftRight_eq_div_pow, Nat.cast_pow, Nat.cast_ofNat]

/-! ### Words -/

/-- Every word of OPcode 0000 with the zero field clear is the operation its Func selects (R65). -/
theorem decode_wordR_aluRegister (fn : BitVec 4) (rd rs rt : RegId) :
    decode (wordR 0b0000#4 fn rd rs rt) = .ok (aluRegister fn rd rs rt) := by
  simp [decode, requireZero]

/-- Every word of OPcode 0001 is the operation its Func selects (R65). -/
theorem decode_wordI_aluImmediate (fn : BitVec 4) (rd rs : RegId) (imm : Imm16) :
    decode (wordI 0b0001#4 fn rd rs imm) = .ok (aluImmediate fn rd rs imm) := by
  simp [decode]

/-! ### Meanings -/

/-- An instruction whose meaning ends in `State.writeNext` completes, with that operation's whole effect. -/
theorem completes_of_exec_eq_writeNext {i : Instr} {s : State} {rd : RegId} {v : Word}
    (h : exec i s = s.writeNext rd v) : ∃ t, exec i s = .next t ∧ WritesReg s rd v t :=
  h ▸ writeNext_spec s rd v

section
variable (rd rs rt : RegId) (imm : Imm16) (s : State)

theorem exec_and : exec (.and rd rs rt) s = s.writeNext rd (s.readReg rs &&& s.readReg rt) := rfl

theorem exec_or : exec (.or rd rs rt) s = s.writeNext rd (s.readReg rs ||| s.readReg rt) := rfl

theorem exec_xor : exec (.xor rd rs rt) s = s.writeNext rd (s.readReg rs ^^^ s.readReg rt) := rfl

theorem exec_andi : exec (.andi rd rs imm) s = s.writeNext rd (s.readReg rs &&& BitVec.ofNat 32 imm.toNat) := by
  rw [← zext16_eq_ofNat]; rfl

theorem exec_ori : exec (.ori rd rs imm) s = s.writeNext rd (s.readReg rs ||| BitVec.ofNat 32 imm.toNat) := by
  rw [← zext16_eq_ofNat]; rfl

theorem exec_xori : exec (.xori rd rs imm) s = s.writeNext rd (s.readReg rs ^^^ BitVec.ofNat 32 imm.toNat) := by
  rw [← zext16_eq_ofNat]; rfl

theorem exec_sll : exec (.sll rd rs rt) s =
    s.writeNext rd (BitVec.ofNat 32 ((s.readReg rs).toNat * 2 ^ ((s.readReg rt).toNat % 32))) := by
  rw [← shiftLeft_eq_ofNat, ← shiftAmount_eq_mod]; rfl

theorem exec_slli : exec (.slli rd rs imm) s =
    s.writeNext rd (BitVec.ofNat 32 ((s.readReg rs).toNat * 2 ^ (imm.toNat % 32))) := by
  rw [← shiftLeft_eq_ofNat, ← shiftAmountImm_eq_mod]; rfl

theorem exec_srl : exec (.srl rd rs rt) s =
    s.writeNext rd (BitVec.ofNat 32 ((s.readReg rs).toNat / 2 ^ ((s.readReg rt).toNat % 32))) := by
  rw [← shiftRightLogical_eq_ofNat, ← shiftAmount_eq_mod]; rfl

theorem exec_srli : exec (.srli rd rs imm) s =
    s.writeNext rd (BitVec.ofNat 32 ((s.readReg rs).toNat / 2 ^ (imm.toNat % 32))) := by
  rw [← shiftRightLogical_eq_ofNat, ← shiftAmountImm_eq_mod]; rfl

theorem exec_sra : exec (.sra rd rs rt) s =
    s.writeNext rd (BitVec.ofInt 32 ((s.readReg rs).toInt / 2 ^ ((s.readReg rt).toNat % 32))) := by
  rw [← shiftRightArithmetic_eq_ofInt, ← shiftAmount_eq_mod]; rfl

theorem exec_srai : exec (.srai rd rs imm) s =
    s.writeNext rd (BitVec.ofInt 32 ((s.readReg rs).toInt / 2 ^ (imm.toNat % 32))) := by
  rw [← shiftRightArithmetic_eq_ofInt, ← shiftAmountImm_eq_mod]; rfl

end

/-- Settles O23: the meaning of each shift, with its amount and its result as exact integers, is a `State.writeNext`; the
words are rows of the two Func tables. -/
theorem shiftsAreExactByTheLowFiveBits : Obligations.ShiftsAreExactByTheLowFiveBits := by
  intro s rd rs rt imm
  exact
    ⟨decode_wordR_aluRegister _ rd rs rt, completes_of_exec_eq_writeNext (exec_sll rd rs rt s),
      decode_wordI_aluImmediate _ rd rs imm, completes_of_exec_eq_writeNext (exec_slli rd rs imm s),
      decode_wordR_aluRegister _ rd rs rt, completes_of_exec_eq_writeNext (exec_srl rd rs rt s),
      decode_wordI_aluImmediate _ rd rs imm, completes_of_exec_eq_writeNext (exec_srli rd rs imm s),
      decode_wordR_aluRegister _ rd rs rt, completes_of_exec_eq_writeNext (exec_sra rd rs rt s),
      decode_wordI_aluImmediate _ rd rs imm, completes_of_exec_eq_writeNext (exec_srai rd rs imm s)⟩

/-- Settles O22: the meaning of each logical instruction is a `State.writeNext` of the bitwise result; the words are rows of
the two Func tables. -/
theorem logicalOperations : Obligations.LogicalOperations := by
  intro s rd rs rt imm
  exact
    ⟨decode_wordR_aluRegister _ rd rs rt, completes_of_exec_eq_writeNext (exec_and rd rs rt s),
      decode_wordI_aluImmediate _ rd rs imm, completes_of_exec_eq_writeNext (exec_andi rd rs imm s),
      decode_wordR_aluRegister _ rd rs rt, completes_of_exec_eq_writeNext (exec_or rd rs rt s),
      decode_wordI_aluImmediate _ rd rs imm, completes_of_exec_eq_writeNext (exec_ori rd rs imm s),
      decode_wordR_aluRegister _ rd rs rt, completes_of_exec_eq_writeNext (exec_xor rd rs rt s),
      decode_wordI_aluImmediate _ rd rs imm, completes_of_exec_eq_writeNext (exec_xori rd rs imm s)⟩

end Sys2Proof.Machine
end

section
/-! PROOFS. The test instructions of 42_test.md: the twelve register tests and the twelve immediate tests. -/

namespace Sys2Proof.Machine

/-! ### Operands -/

/-- Sign extension keeps the signed value of the immediate (R68). -/
theorem sext16_toInt (imm : Imm16) : (sext16 imm).toInt = imm.toInt :=
  BitVec.toInt_signExtend_of_le (by decide)

/-- Zero extension keeps the unsigned value of the immediate (R68). -/
theorem zext16_toNat (imm : Imm16) : (zext16 imm).toNat = imm.toNat :=
  BitVec.toNat_setWidth_of_le (by decide)

/-! ### Unsigned relations: the model compares as integers, the rules as natural numbers -/

theorem unsignedInt_lt_iff {v w : Word} : unsignedInt v < unsignedInt w ↔ v.toNat < w.toNat := Nat.cast_lt

theorem unsignedInt_le_iff {v w : Word} : unsignedInt v ≤ unsignedInt w ↔ v.toNat ≤ w.toNat := Nat.cast_le

theorem unsignedInt_inj_iff {v w : Word} : unsignedInt v = unsignedInt w ↔ v.toNat = w.toNat := Nat.cast_inj

/-! ### Words -/

/-- The register tests in the order of their Func values 0000 to 1011 (R66). -/
def registerTest (fn : Fin 12) (rd rs rt : RegId) : Instr :=
  match fn with
  | 0 => .slt rd rs rt
  | 1 => .sltu rd rs rt
  | 2 => .sgt rd rs rt
  | 3 => .sgtu rd rs rt
  | 4 => .sle rd rs rt
  | 5 => .sleu rd rs rt
  | 6 => .sge rd rs rt
  | 7 => .sgeu rd rs rt
  | 8 => .seq rd rs rt
  | 9 => .sequ rd rs rt
  | 10 => .sne rd rs rt
  | 11 => .sneu rd rs rt

/-- The immediate tests in the order of their Func values 0000 to 1011 (R66). -/
def immediateTest (fn : Fin 12) (rd rs : RegId) (imm : Imm16) : Instr :=
  match fn with
  | 0 => .slti rd rs imm
  | 1 => .sltui rd rs imm
  | 2 => .sgti rd rs imm
  | 3 => .sgtui rd rs imm
  | 4 => .slei rd rs imm
  | 5 => .sleui rd rs imm
  | 6 => .sgei rd rs imm
  | 7 => .sgeui rd rs imm
  | 8 => .seqi rd rs imm
  | 9 => .sequi rd rs imm
  | 10 => .snei rd rs imm
  | 11 => .sneui rd rs imm

theorem decode_wordR_registerTest (rd rs rt : RegId) (fn : Fin 12) :
    decode (wordR 0b0010#4 (BitVec.ofNat 4 fn) rd rs rt) = .ok (registerTest fn rd rs rt) := by
  fin_cases fn <;> simp [decode, decodeOp2, requireZero, registerTest]

theorem decode_wordI_immediateTest (rd rs : RegId) (imm : Imm16) (fn : Fin 12) :
    decode (wordI 0b0011#4 (BitVec.ofNat 4 fn) rd rs imm) = .ok (immediateTest fn rd rs imm) := by
  fin_cases fn <;> simp [decode, decodeOp3, immediateTest]

/-! ### Meanings -/

/-- An instruction that writes the outcome of a comparison which stands for the relation `p` completes with 1 where `p` holds
and 0 where it does not (R149 (a)). -/
theorem completes_of_exec_eq_testWord {i : Instr} {s : State} {rd : RegId} {p q : Prop} [Decidable p] [Decidable q]
    (hexec : exec i s = s.writeNext rd (testWord (decide q))) (h : q ↔ p) :
    ∃ t, exec i s = .next t ∧ WritesReg s rd (if p then 1#32 else 0#32) t := by
  have htest : testWord (decide q) = if p then 1#32 else 0#32 := by simp only [testWord, decide_eq_true_iff, h]
  exact completes_of_exec_eq_writeNext (htest ▸ hexec)

/-- Settles O24: each meaning compares the exact values as integers, which for the unsigned forms is the comparison of the
natural numbers. -/
theorem registerTestsWriteOneOrZero : Obligations.RegisterTestsWriteOneOrZero := by
  intro s rd rs rt
  have hword := decode_wordR_registerTest rd rs rt
  exact
    ⟨hword 0, completes_of_exec_eq_testWord rfl Iff.rfl,
      hword 1, completes_of_exec_eq_testWord rfl unsignedInt_lt_iff,
      hword 2, completes_of_exec_eq_testWord rfl Iff.rfl,
      hword 3, completes_of_exec_eq_testWord rfl unsignedInt_lt_iff,
      hword 4, completes_of_exec_eq_testWord rfl Iff.rfl,
      hword 5, completes_of_exec_eq_testWord rfl unsignedInt_le_iff,
      hword 6, completes_of_exec_eq_testWord rfl Iff.rfl,
      hword 7, completes_of_exec_eq_testWord rfl unsignedInt_le_iff,
      hword 8, completes_of_exec_eq_testWord rfl Iff.rfl,
      hword 9, completes_of_exec_eq_testWord rfl unsignedInt_inj_iff,
      hword 10, completes_of_exec_eq_testWord rfl Iff.rfl,
      hword 11, completes_of_exec_eq_testWord rfl unsignedInt_inj_iff.not⟩

/-- Settles O25: the values of the extended immediate are those of the immediate, so each immediate test is the comparison of
two words that its register test is. -/
theorem immediateTestsWriteOneOrZero : Obligations.ImmediateTestsWriteOneOrZero := by
  intro s rd rs imm
  have hword := decode_wordI_immediateTest rd rs imm
  rw [← sext16_toInt imm, ← zext16_toNat imm]
  exact
    ⟨hword 0, completes_of_exec_eq_testWord rfl Iff.rfl,
      hword 1, completes_of_exec_eq_testWord rfl unsignedInt_lt_iff,
      hword 2, completes_of_exec_eq_testWord rfl Iff.rfl,
      hword 3, completes_of_exec_eq_testWord rfl unsignedInt_lt_iff,
      hword 4, completes_of_exec_eq_testWord rfl Iff.rfl,
      hword 5, completes_of_exec_eq_testWord rfl unsignedInt_le_iff,
      hword 6, completes_of_exec_eq_testWord rfl Iff.rfl,
      hword 7, completes_of_exec_eq_testWord rfl unsignedInt_le_iff,
      hword 8, completes_of_exec_eq_testWord rfl Iff.rfl,
      hword 9, completes_of_exec_eq_testWord rfl unsignedInt_inj_iff,
      hword 10, completes_of_exec_eq_testWord rfl Iff.rfl,
      hword 11, completes_of_exec_eq_testWord rfl unsignedInt_inj_iff.not⟩

end Sys2Proof.Machine
end

section
/-! PROOFS. The branch instructions of 43_branch.md that read a register and write the program counter alone: `jr`, `beqz` and
`bnez`. -/

namespace Sys2Proof.Machine

/-! ### Words -/

theorem decode_jr_word (rs : RegId) : decode (wordJ 0b0101#4 0b0000#4 rs 0#20) = .ok (.jr rs) := by
  simp [decode, requireZero]

theorem decode_beqz_word (rs : RegId) (off : Imm20) :
    decode (wordJ 0b1010#4 0b0000#4 rs off) = .ok (.beqz rs off) := by
  simp [decode, requireZero]

theorem decode_bnez_word (rs : RegId) (off : Imm20) :
    decode (wordJ 0b1011#4 0b0000#4 rs off) = .ok (.bnez rs off) := by
  simp [decode, requireZero]

/-! ### Meanings -/

/-- An instruction whose meaning is a `State.setPc` completes, with that operation's whole effect. -/
theorem completes_of_exec_eq_setPc {i : Instr} {s : State} {a : Addr} (h : exec i s = .next (s.setPc a)) :
    ∃ t, exec i s = .next t ∧ OnlyPc s a t :=
  ⟨s.setPc a, h, setPc_spec s a⟩

theorem exec_jr (rs : RegId) (s : State) :
    exec (.jr rs) s = .next (s.setPc ((s.readReg rs).extractLsb' 0 20)) := rfl

/-- The offset field is added as it stands: its sign extension is lost modulo 2^20 (R179 (d), R184). -/
theorem exec_beqz (rs : RegId) (off : Imm20) (s : State) :
    exec (.beqz rs off) s =
      .next (s.setPc (if s.readReg rs = 0#32 then s.pc + 1#20 + off else s.pc + 1#20)) := by
  change execBeqz rs off s = _
  rw [execBeqz, branchTarget_eq, nextAddr]

/-- The condition is that of `beqz`, with the two addresses exchanged (R185). -/
theorem exec_bnez (rs : RegId) (off : Imm20) (s : State) :
    exec (.bnez rs off) s =
      .next (s.setPc (if s.readReg rs = 0#32 then s.pc + 1#20 else s.pc + 1#20 + off)) := by
  change execBnez rs off s = _
  rw [execBnez, branchTarget_eq, nextAddr, ite_not]

/-- Settles O31: each branch is a `State.setPc` of one of two addresses, and the target modulo 2^20 is the next address plus
the offset field. -/
theorem branchesOnZero : Obligations.BranchesOnZero := by
  intro s rs off
  exact
    ⟨decode_beqz_word rs off, completes_of_exec_eq_setPc (exec_beqz rs off s),
      decode_bnez_word rs off, completes_of_exec_eq_setPc (exec_bnez rs off s)⟩

/-- Settles O27: `jr` is a `State.setPc` of the low 20 bits of the register. -/
theorem jumpToRegister : Obligations.JumpToRegister := by
  intro s rs
  exact ⟨decode_jr_word rs, completes_of_exec_eq_setPc (exec_jr rs s)⟩

end Sys2Proof.Machine
end

section
/-! PROOFS. Trap entry of 60_exceptions.md: the one handler and the mode it is entered in. -/

namespace Sys2Proof.Machine

/-! ### Where trap entry goes and in which mode -/

/-- The handler is the one the state held before the trap, whatever the cause and the return address (R232). -/
@[simp] theorem trapEntry_pc (s : State) (c : Config.Cause) (ret : Addr) : (s.trapEntry c ret).pc = s.handlerAddress := by
  obtain ⟨_, _, _, _, _, _, hpc, _⟩ := trapEntry_spec s c ret
  exact hpc

@[simp] theorem trapEntry_ku (s : State) (c : Config.Cause) (ret : Addr) : (s.trapEntry c ret).ku = .kernel := by
  obtain ⟨_, _, _, hku, _⟩ := trapEntry_spec s c ret
  exact hku

/-- Settles O48: the address trap entry goes to is a function of the state before it alone, so two causes and two return
addresses share it. -/
theorem oneHandlerInKernelModeForEveryCause : Obligations.OneHandlerInKernelModeForEveryCause := by
  intro s c d a b
  have hsame : (s.trapEntry c a).pc = (s.trapEntry d b).pc :=
    (trapEntry_pc s c a).trans (trapEntry_pc s d b).symm
  exact ⟨hsame, trapEntry_ku s c a⟩

end Sys2Proof.Machine
end

section
/-! PROOFS. The encodings of 30_encoding.md: the round trip between words and instructions, and the opcode table. -/

namespace Sys2Proof.Machine

/-! ### Words that decode -/

theorem requireZero_eq_ok_iff {b : Bool} {i j : Instr} : requireZero b i = .ok j ↔ b = true ∧ i = j := by
  cases b <;> simp [requireZero]

/-- The register tests by their Func value, which is at most 1011 (R66). -/
theorem decode_wordR_of_func_lt {fn : BitVec 4} (h : fn.toNat < 12) (rd rs rt : RegId) :
    decode (wordR 0b0010#4 fn rd rs rt) = .ok (registerTest ⟨fn.toNat, h⟩ rd rs rt) := by
  rw [← decode_wordR_registerTest, BitVec.ofNat_toNat, BitVec.setWidth_eq]

/-- The immediate tests by their Func value, which is at most 1011 (R66). -/
theorem decode_wordI_of_func_lt {fn : BitVec 4} (h : fn.toNat < 12) (rd rs : RegId) (imm : Imm16) :
    decode (wordI 0b0011#4 fn rd rs imm) = .ok (immediateTest ⟨fn.toNat, h⟩ rd rs imm) := by
  rw [← decode_wordI_immediateTest, BitVec.ofNat_toNat, BitVec.setWidth_eq]

theorem decode_j_word (addr : Imm20) : decode (wordJ 0b0100#4 0b0000#4 0b0000#4 addr) = .ok (.j addr) := by
  simp [decode, requireZero]

theorem decode_jal_word (addr : Imm20) : decode (wordJ 0b0110#4 0b0000#4 0b0000#4 addr) = .ok (.jal addr) := by
  simp [decode, requireZero]

theorem decode_jalr_word (rs : RegId) : decode (wordJ 0b0111#4 0b0000#4 rs 0#20) = .ok (.jalr rs) := by
  simp [decode, requireZero]

theorem decode_lw_word (rd rs : RegId) (off : Imm20) : decode (wordJ 0b1000#4 rd rs off) = .ok (.lw rd rs off) := by
  simp [decode]

theorem decode_sw_word (rd rs : RegId) (off : Imm20) : decode (wordJ 0b1001#4 rd rs off) = .ok (.sw rd rs off) := by
  simp [decode]

theorem decode_movgs_word (rd rs : RegId) : decode (wordI 0b0011#4 0b1100#4 rd rs 0#16) = .ok (.movgs rd rs) := by
  simp [decode, decodeOp3, requireZero]

theorem decode_movsg_word (rd rs : RegId) : decode (wordI 0b0011#4 0b1101#4 rd rs 0#16) = .ok (.movsg rd rs) := by
  simp [decode, decodeOp3, requireZero]

/-- Settles O2: the words of an OPcode with sixteen or twelve Func values decode alike, and every other instruction's word
has a decoding lemma of its own. -/
theorem decodeOfEncodeIsTheInstruction : Obligations.DecodeOfEncodeIsTheInstruction := by
  intro i
  cases i with
  | add rd rs rt | addu rd rs rt | sub rd rs rt | subu rd rs rt | mult rd rs rt | multu rd rs rt | div rd rs rt
  | divu rd rs rt | rem rd rs rt | remu rd rs rt | and rd rs rt | or rd rs rt | xor rd rs rt | sll rd rs rt
  | srl rd rs rt | sra rd rs rt => exact decode_wordR_aluRegister _ rd rs rt
  | addi rd rs imm | addui rd rs imm | subi rd rs imm | subui rd rs imm | multi rd rs imm | multui rd rs imm
  | divi rd rs imm | divui rd rs imm | remi rd rs imm | remui rd rs imm | andi rd rs imm | ori rd rs imm
  | xori rd rs imm | slli rd rs imm | srli rd rs imm | srai rd rs imm => exact decode_wordI_aluImmediate _ rd rs imm
  | slt rd rs rt | sltu rd rs rt | sgt rd rs rt | sgtu rd rs rt | sle rd rs rt | sleu rd rs rt | sge rd rs rt
  | sgeu rd rs rt | seq rd rs rt | sequ rd rs rt | sne rd rs rt | sneu rd rs rt =>
    exact decode_wordR_of_func_lt (by decide) rd rs rt
  | slti rd rs imm | sltui rd rs imm | sgti rd rs imm | sgtui rd rs imm | slei rd rs imm | sleui rd rs imm
  | sgei rd rs imm | sgeui rd rs imm | seqi rd rs imm | sequi rd rs imm | snei rd rs imm | sneui rd rs imm =>
    exact decode_wordI_of_func_lt (by decide) rd rs imm
  | lhi rd imm => exact decode_lhi_word rd imm
  | la rd addr => exact decode_la_word rd addr
  | j addr => exact decode_j_word addr
  | jr rs => exact decode_jr_word rs
  | jal addr => exact decode_jal_word addr
  | jalr rs => exact decode_jalr_word rs
  | beqz rs off => exact decode_beqz_word rs off
  | bnez rs off => exact decode_bnez_word rs off
  | lw rd rs off => exact decode_lw_word rd rs off
  | sw rd rs off => exact decode_sw_word rd rs off
  | movgs rd rs => exact decode_movgs_word rd rs
  | movsg rd rs => exact decode_movsg_word rd rs
  | brk | syscall | rfe => rfl

/-! ### The word of a decoded instruction -/

theorem encode_aluRegister (fn : BitVec 4) (rd rs rt : RegId) :
    encode (aluRegister fn rd rs rt) = wordR 0b0000#4 fn rd rs rt := by
  obtain ⟨⟨n, hn⟩⟩ := fn
  interval_cases n <;> rfl

theorem encode_aluImmediate (fn : BitVec 4) (rd rs : RegId) (imm : Imm16) :
    encode (aluImmediate fn rd rs imm) = wordI 0b0001#4 fn rd rs imm := by
  obtain ⟨⟨n, hn⟩⟩ := fn
  interval_cases n <;> rfl

/-- An R-type word is the I-type word whose immediate is the zero field and Rt. -/
theorem wordI_eq_wordR (op fn : BitVec 4) (rd rs rt : RegId) : wordI op fn rd rs (0#12 ++ rt) = wordR op fn rd rs rt := by
  simpa using wordI_fields (wordR op fn rd rs rt)

/-- An instruction without operands under OPcode 0010 has one word: Rd, Rs and the low half are zero (R71). -/
theorem wordR_of_noOperand {w : Word} {fn : BitVec 4} (hop : fieldOp w = 0b0010#4) (hfn : fieldFunc w = fn)
    (h : (fieldRd w == 0#4 && fieldRs w == 0#4 && fieldImm w == 0#16) = true) :
    wordR 0b0010#4 fn 0#4 0#4 0#4 = w := by
  simp only [Bool.and_eq_true, beq_iff_eq] at h
  obtain ⟨⟨hrd, hrs⟩, himm⟩ := h
  have hw := wordI_fields w
  rw [hop, hfn, hrd, hrs, himm] at hw
  exact (wordI_eq_wordR _ _ _ _ 0#4).symm.trans hw

/-- The cases are the Func values in their order: 1100 to 1110 have no operand, 1111 is unused, the others are the tests. -/
theorem encode_of_decodeOp2 {w : Word} {i : Instr} (hop : fieldOp w = 0b0010#4) (h : decodeOp2 w = .ok i) :
    encode i = w := by
  unfold decodeOp2 at h
  split at h
  case h_13 hfn | h_14 hfn | h_15 hfn =>
    obtain ⟨hzero, rfl⟩ := requireZero_eq_ok_iff.1 h
    exact wordR_of_noOperand hop hfn hzero
  case h_16 => cases h
  all_goals
    next hfn =>
    obtain ⟨hzero, rfl⟩ := requireZero_eq_ok_iff.1 h
    have hw := wordR_fields w (beq_iff_eq.1 hzero)
    rwa [hop, hfn] at hw

/-- The cases are the Func values in their order: 1100 to 1110 have a constant field, 1111 is unused, the others are the
tests. -/
theorem encode_of_decodeOp3 {w : Word} {i : Instr} (hop : fieldOp w = 0b0011#4) (h : decodeOp3 w = .ok i) :
    encode i = w := by
  have hw := wordI_fields w
  unfold decodeOp3 at h
  split at h
  case h_13 hfn | h_14 hfn | h_15 hfn =>
    obtain ⟨hzero, rfl⟩ := requireZero_eq_ok_iff.1 h
    rwa [hop, hfn, beq_iff_eq.1 hzero] at hw
  case h_16 => cases h
  all_goals
    next hfn =>
    injection h with h
    subst h
    rwa [hop, hfn] at hw

/-- Settles O3: by the OPcode, the cases in its order; every bit of the word is in a field of its format, which the instruction keeps or the
fixed-field check has found zero (R71). -/
theorem encodeOfDecodedWordIsTheWord : Obligations.EncodeOfDecodedWordIsTheWord := by
  intro w i h
  have hw := wordJ_fields w
  unfold decode at h
  split at h
  case h_1 hop =>
    obtain ⟨hzero, rfl⟩ := requireZero_eq_ok_iff.1 h
    rw [encode_aluRegister, ← hop]
    exact wordR_fields w (beq_iff_eq.1 hzero)
  case h_2 hop =>
    injection h with h
    rw [← h, encode_aluImmediate, ← hop]
    exact wordI_fields w
  case h_3 hop => exact encode_of_decodeOp2 hop h
  case h_4 hop => exact encode_of_decodeOp3 hop h
  case h_5 hop | h_6 hop | h_7 hop | h_8 hop =>
    obtain ⟨hzero, rfl⟩ := requireZero_eq_ok_iff.1 h
    simp only [Bool.and_eq_true, beq_iff_eq] at hzero
    rwa [hop, hzero.1, hzero.2] at hw
  case h_9 hop | h_10 hop =>
    injection h with h
    subst h
    rwa [hop] at hw
  case h_11 hop | h_12 hop | h_13 hop =>
    obtain ⟨hzero, rfl⟩ := requireZero_eq_ok_iff.1 h
    rwa [hop, beq_iff_eq.1 hzero] at hw
  case h_14 => cases h

/-! ### The opcode table -/

open Sys2Proof.Laws.EncodeInRow in
/-- The word of every instruction lies in the instruction's row (R69). -/
theorem encode_and_mask (i : Instr) : encode i &&& i.row.mask = i.row.pattern := by
  cases i with
  | add | addu | sub | subu | mult | multu | div | divu | rem | remu | and | or | xor | sll | srl | sra
  | slt | sltu | sgt | sgtu | sle | sleu | sge | sgeu | seq | sequ | sne | sneu => exact (wordR_and _ _ _ _ _).trans rfl
  | addi | addui | subi | subui | multi | multui | divi | divui | remi | remui | andi | ori | xori | slli | srli | srai
  | slti | sltui | sgti | sgtui | slei | sleui | sgei | sgeui | seqi | sequi | snei | sneui =>
    exact (wordI_and _ _ _ _ _).trans rfl
  | lhi => exact lhi _ _
  | la => exact la _ _
  | j => exact j _
  | jr => exact jr _
  | jal => exact jal _
  | jalr => exact jalr _
  | beqz => exact beqz _ _
  | bnez => exact bnez _ _
  | lw => exact lw _ _ _
  | sw => exact sw _ _ _
  | movgs => exact movgs _ _
  | movsg => exact movsg _ _
  | brk => exact brk
  | syscall => exact syscall
  | rfe => exact rfe

theorem row_mem_opcodeRows (i : Instr) : i.row ∈ opcodeRows := by
  cases i <;> (dsimp only [Instr.row]; decide)

/-- The match value of a row is itself the word of an instruction of that row. -/
theorem exists_row_of_mem_opcodeRows {r : OpcodeRow} (h : r ∈ opcodeRows) : ∃ i : Instr, i.row = r := by
  have hall : opcodeRows.all (fun r => match decode r.pattern with
    | .ok i => i.row == r
    | .error _ => false) = true := by decide
  have hr := List.all_eq_true.1 hall r h
  split at hr
  · next i _ => exact ⟨i, beq_iff_eq.1 hr⟩
  · cases hr

/-! Under the mask of its row a word keeps the fields that are constant there; the other fields are its own. -/

theorem extractLsb'_eq_of_and {w m p : Word} {start len : Nat} (h : w &&& m = p)
    (hm : m.extractLsb' start len = BitVec.allOnes len) : w.extractLsb' start len = p.extractLsb' start len := by
  rw [← h, BitVec.extractLsb'_and, hm, BitVec.and_allOnes]

theorem eq_wordR_of_and {w p : Word} (h : w &&& 0xF00FFFF0#32 = p) (hzero : fieldZero p = 0#12) :
    w = wordR (fieldOp p) (fieldFunc p) (fieldRd w) (fieldRs w) (fieldRt w) := by
  have hop : fieldOp w = fieldOp p := extractLsb'_eq_of_and h (by decide)
  have hfn : fieldFunc w = fieldFunc p := extractLsb'_eq_of_and h (by decide)
  have hz : fieldZero w = fieldZero p := extractLsb'_eq_of_and h (by decide)
  rw [← hop, ← hfn, wordR_fields w (hz.trans hzero)]

theorem eq_wordI_of_and {w p m : Word} (h : w &&& m = p) (hmop : fieldOp m = 0xF#4) (hmfn : fieldFunc m = 0xF#4) :
    w = wordI (fieldOp p) (fieldFunc p) (fieldRd w) (fieldRs w) (fieldImm w) := by
  have hop : fieldOp w = fieldOp p := extractLsb'_eq_of_and h hmop
  have hfn : fieldFunc w = fieldFunc p := extractLsb'_eq_of_and h hmfn
  rw [← hop, ← hfn, wordI_fields]

theorem eq_wordJ_of_and {w p m : Word} (h : w &&& m = p) (hmop : fieldOp m = 0xF#4) :
    w = wordJ (fieldOp p) (fieldRd w) (fieldRs w) (fieldAddr w) := by
  have hop : fieldOp w = fieldOp p := extractLsb'_eq_of_and h hmop
  rw [← hop, wordJ_fields]

/-- A word that matches an instruction's row decodes to an instruction of that row: it has the format's shape, with the
constant fields of the row. -/
theorem exists_decode_of_and_mask {w : Word} (i : Instr) (h : w &&& i.row.mask = i.row.pattern) :
    ∃ j, decode w = .ok j ∧ j.row = i.row := by
  cases i with
  | add | addu | sub | subu | mult | multu | div | divu | rem | remu | and | or | xor | sll | srl | sra =>
    dsimp only [Instr.row] at h ⊢
    rw [eq_wordR_of_and h rfl]
    exact ⟨_, decode_wordR_aluRegister _ _ _ _, rfl⟩
  | addi | addui | subi | subui | multi | multui | divi | divui | remi | remui | andi | ori | xori | slli | srli | srai =>
    dsimp only [Instr.row] at h ⊢
    rw [eq_wordI_of_and h rfl rfl]
    exact ⟨_, decode_wordI_aluImmediate _ _ _ _, rfl⟩
  | slt | sltu | sgt | sgtu | sle | sleu | sge | sgeu | seq | sequ | sne | sneu =>
    dsimp only [Instr.row] at h ⊢
    rw [eq_wordR_of_and h rfl]
    exact ⟨_, decode_wordR_of_func_lt (by decide) _ _ _, rfl⟩
  | slti | sltui | sgti | sgtui | slei | sleui | sgei | sgeui | seqi | sequi | snei | sneui =>
    dsimp only [Instr.row] at h ⊢
    rw [eq_wordI_of_and h rfl rfl]
    exact ⟨_, decode_wordI_of_func_lt (by decide) _ _ _, rfl⟩
  | lhi =>
    dsimp only [Instr.row] at h ⊢
    have hrs : fieldRs w = 0#4 := extractLsb'_eq_of_and h rfl
    rw [eq_wordI_of_and h rfl rfl, hrs]
    exact ⟨_, decode_lhi_word _ _, rfl⟩
  | movgs =>
    dsimp only [Instr.row] at h ⊢
    have himm : fieldImm w = 0#16 := extractLsb'_eq_of_and h rfl
    rw [eq_wordI_of_and h rfl rfl, himm]
    exact ⟨_, decode_movgs_word _ _, rfl⟩
  | movsg =>
    dsimp only [Instr.row] at h ⊢
    have himm : fieldImm w = 0#16 := extractLsb'_eq_of_and h rfl
    rw [eq_wordI_of_and h rfl rfl, himm]
    exact ⟨_, decode_movsg_word _ _, rfl⟩
  | la =>
    dsimp only [Instr.row] at h ⊢
    have hrs : fieldRs w = 0#4 := extractLsb'_eq_of_and h rfl
    rw [eq_wordJ_of_and h rfl, hrs]
    exact ⟨_, decode_la_word _ _, rfl⟩
  | j =>
    dsimp only [Instr.row] at h ⊢
    have hrd : fieldRd w = 0#4 := extractLsb'_eq_of_and h rfl
    have hrs : fieldRs w = 0#4 := extractLsb'_eq_of_and h rfl
    rw [eq_wordJ_of_and h rfl, hrd, hrs]
    exact ⟨_, decode_j_word _, rfl⟩
  | jal =>
    dsimp only [Instr.row] at h ⊢
    have hrd : fieldRd w = 0#4 := extractLsb'_eq_of_and h rfl
    have hrs : fieldRs w = 0#4 := extractLsb'_eq_of_and h rfl
    rw [eq_wordJ_of_and h rfl, hrd, hrs]
    exact ⟨_, decode_jal_word _, rfl⟩
  | jr =>
    dsimp only [Instr.row] at h ⊢
    have hrd : fieldRd w = 0#4 := extractLsb'_eq_of_and h rfl
    have haddr : fieldAddr w = 0#20 := extractLsb'_eq_of_and h rfl
    rw [eq_wordJ_of_and h rfl, hrd, haddr]
    exact ⟨_, decode_jr_word _, rfl⟩
  | jalr =>
    dsimp only [Instr.row] at h ⊢
    have hrd : fieldRd w = 0#4 := extractLsb'_eq_of_and h rfl
    have haddr : fieldAddr w = 0#20 := extractLsb'_eq_of_and h rfl
    rw [eq_wordJ_of_and h rfl, hrd, haddr]
    exact ⟨_, decode_jalr_word _, rfl⟩
  | beqz =>
    dsimp only [Instr.row] at h ⊢
    have hrd : fieldRd w = 0#4 := extractLsb'_eq_of_and h rfl
    rw [eq_wordJ_of_and h rfl, hrd]
    exact ⟨_, decode_beqz_word _ _, rfl⟩
  | bnez =>
    dsimp only [Instr.row] at h ⊢
    have hrd : fieldRd w = 0#4 := extractLsb'_eq_of_and h rfl
    rw [eq_wordJ_of_and h rfl, hrd]
    exact ⟨_, decode_bnez_word _ _, rfl⟩
  | lw =>
    dsimp only [Instr.row] at h ⊢
    rw [eq_wordJ_of_and h rfl]
    exact ⟨_, decode_lw_word _ _ _, rfl⟩
  | sw =>
    dsimp only [Instr.row] at h ⊢
    rw [eq_wordJ_of_and h rfl]
    exact ⟨_, decode_sw_word _ _ _, rfl⟩
  | brk | syscall | rfe =>
    dsimp only [Instr.row] at h ⊢
    rw [← BitVec.and_allOnes (x := w), show w &&& BitVec.allOnes 32 = _ from h]
    exact ⟨_, rfl, rfl⟩

/-- Settles O4: a word that decodes is the word of its instruction, which lies in the instruction's row; a row is an
instruction's, and every word that matches it decodes in it. -/
theorem decodeFollowsTheOpcodeTable : Obligations.DecodeFollowsTheOpcodeTable := by
  refine ⟨fun w i h => ⟨row_mem_opcodeRows i, ?_⟩, fun w r hr h => ?_⟩
  · rw [← encodeOfDecodedWordIsTheWord w i h]
    exact encode_and_mask i
  · obtain ⟨i, rfl⟩ := exists_row_of_mem_opcodeRows hr
    exact exists_decode_of_and_mask i h

/-- Settles O5: a word that matches two rows decodes to an instruction of each, and it decodes to one instruction only. -/
theorem opcodeRowsAreDisjoint : Obligations.OpcodeRowsAreDisjoint := by
  intro w r q hr hq hwr hwq
  obtain ⟨_, hdecodes⟩ := decodeFollowsTheOpcodeTable
  obtain ⟨i, hi, rfl⟩ := hdecodes w r hr hwr
  obtain ⟨j, hj, rfl⟩ := hdecodes w q hq hwq
  rw [Except.ok.inj (hi.symm.trans hj)]

/-- Settles O6: the OPcode, or under OPcode 0010 and 0011 the Func value, selects the arm that rejects. -/
theorem unusedEncodingsAreRejected : Obligations.UnusedEncodingsAreRejected := by
  intro w
  refine ⟨fun hop => ?_, fun hop hfn => ?_⟩
  · rcases hop with hop | hop | hop <;> simp [decode, hop]
  · rcases hop with hop | hop
    · simp [decode, decodeOp2, hop, hfn]
    · simp [decode, decodeOp3, hop, hfn]

/-- Settles O1: each word is that of the instruction the spec names, so it decodes to it. -/
theorem specExampleWordsDecode : Obligations.SpecExampleWordsDecode :=
  have hword (i : Instr) := decodeOfEncodeIsTheInstruction i
  ⟨hword (.add 3#4 1#4 2#4), hword (.addi 3#4 1#4 0xFFFF#16), hword (.lhi 3#4 0x1234#16), hword (.la 1#4 0x12345#20),
    hword (.and 3#4 1#4 2#4), hword (.srai 3#4 1#4 8#16), hword (.slt 3#4 1#4 2#4), hword (.sneui 3#4 1#4 0xFFFF#16),
    hword (.j 0x00010#20), hword (.jalr 5#4), hword (.bnez 1#4 0xFFFFD#20), hword (.lw 2#4 1#4 4#20),
    hword (.sw 2#4 1#4 4#20), hword (.movgs 9#4 1#4), hword (.movsg 1#4 9#4), hword .brk, hword .syscall, hword .rfe⟩

end Sys2Proof.Machine
end

section
/-! PROOFS. The arithmetic of 40_arithmetic.md: exact sums, differences and products, the quotients and remainders, and the
exceptions taken where there is no exact result to write. -/

namespace Sys2Proof.Machine

/-! ### Operands -/

/-- Settles O7: an extension keeps the value it is named for, the fields cut out of a word are remainders. -/
theorem operandAssembly : Obligations.OperandAssembly := by
  intro imm f v
  have hsext20 : (sext20 f).toInt = f.toInt := BitVec.toInt_signExtend_of_le (by decide)
  have hzext20 : (zext20 f).toNat = f.toNat := BitVec.toNat_setWidth_of_le (by decide)
  have hlow20 : (low20 v).toNat = v.toNat % 1048576 := by
    rw [low20, BitVec.extractLsb'_toNat, Nat.shiftRight_zero]
  exact
    ⟨sext16_toInt imm, zext16_toNat imm, hsext20, hzext20, highImmediate_toNat imm, shiftAmountImm_eq_mod imm,
      shiftAmount_eq_mod v, hlow20⟩

theorem sext16_eq_zero_iff {imm : Imm16} : sext16 imm = 0#32 ↔ imm = 0#16 := by
  rw [← BitVec.toInt_inj, sext16_toInt, ← BitVec.toInt_inj, BitVec.toInt_zero, BitVec.toInt_zero]

theorem zext16_eq_zero_iff {imm : Imm16} : zext16 imm = 0#32 ↔ imm = 0#16 := by
  rw [← BitVec.toNat_inj, zext16_toNat, ← BitVec.toNat_inj, BitVec.toNat_ofNat, BitVec.toNat_ofNat]

theorem unsignedInt_zext16 (imm : Imm16) : unsignedInt (zext16 imm) = (imm.toNat : Int) := by
  rw [unsignedInt, zext16_toNat]

/-! ### Ends of arithmetic instructions -/

section
variable {i : Instr} {s : State} {rd : RegId}

/-- An instruction that comes to a value completes with it written. -/
theorem completes_of_exec_eq_finish_value {v : Word} (h : exec i s = s.finish rd (.value v)) :
    ∃ t, exec i s = .next t ∧ WritesReg s rd v t :=
  h ▸ finish_spec s rd (.value v)

/-- An instruction that comes to an exception completes with it raised. -/
theorem raises_of_exec_eq_finish_raise {e : Config.Exc} (h : exec i s = s.finish rd (.raise e)) :
    ∃ t, exec i s = .next t ∧ Raises s e t :=
  h ▸ finish_spec s rd (.raise e)

end

/-! ### The criteria -/

theorem toInt_ofInt_of_fitsSigned {t : Int} (h : FitsSigned t) : (BitVec.ofInt 32 t).toInt = t := by
  rw [BitVec.toInt_ofInt]
  exact Int.bmod_eq_of_le (by omega) (by omega)

theorem toNat_ofInt_of_fitsUnsigned {t : Int} (h : FitsUnsigned t) : ((BitVec.ofInt 32 t).toNat : Int) = t := by
  rw [BitVec.toNat_ofInt]
  omega

theorem narrowSigned_of_fits {t : Int} (h : FitsSigned t) : narrowSigned t = .value (BitVec.ofInt 32 t) :=
  if_neg (by omega)

theorem narrowSigned_of_not_fits {t : Int} (h : ¬ FitsSigned t) : narrowSigned t = .raise .overflow :=
  if_pos (by omega)

theorem narrowUnsigned_of_fits {t : Int} (h : FitsUnsigned t) : narrowUnsigned t = .value (BitVec.ofInt 32 t) :=
  if_neg (by omega)

theorem narrowUnsigned_of_not_fits {t : Int} (h : ¬ FitsUnsigned t) : narrowUnsigned t = .raise .overflow :=
  if_pos (by omega)

section
variable {i : Instr} {s : State} {rd : RegId} {x : Int}

/-- An instruction whose exact signed result fits writes it. -/
theorem writes_exact_signed (hexec : exec i s = s.finish rd (narrowSigned x)) (h : FitsSigned x) :
    ∃ v t, v.toInt = x ∧ exec i s = .next t ∧ WritesReg s rd v t := by
  rw [narrowSigned_of_fits h] at hexec
  obtain ⟨t, ht⟩ := completes_of_exec_eq_finish_value hexec
  exact ⟨_, t, toInt_ofInt_of_fitsSigned h, ht⟩

/-- An instruction whose exact unsigned result fits writes it. -/
theorem writes_exact_unsigned (hexec : exec i s = s.finish rd (narrowUnsigned x)) (h : FitsUnsigned x) :
    ∃ v t, (v.toNat : Int) = x ∧ exec i s = .next t ∧ WritesReg s rd v t := by
  rw [narrowUnsigned_of_fits h] at hexec
  obtain ⟨t, ht⟩ := completes_of_exec_eq_finish_value hexec
  exact ⟨_, t, toNat_ofInt_of_fitsUnsigned h, ht⟩

/-- An instruction whose exact signed result does not fit raises Overflow. -/
theorem raises_signed_overflow (hexec : exec i s = s.finish rd (narrowSigned x)) (h : ¬ FitsSigned x) :
    ∃ t, exec i s = .next t ∧ Raises s .overflow t :=
  raises_of_exec_eq_finish_raise (narrowSigned_of_not_fits h ▸ hexec)

/-- An instruction whose exact unsigned result does not fit raises Overflow. -/
theorem raises_unsigned_overflow (hexec : exec i s = s.finish rd (narrowUnsigned x)) (h : ¬ FitsUnsigned x) :
    ∃ t, exec i s = .next t ∧ Raises s .overflow t :=
  raises_of_exec_eq_finish_raise (narrowUnsigned_of_not_fits h ▸ hexec)

end

/-! ### Sums, differences and products as exact integers -/

section
variable (rd rs rt : RegId) (imm : Imm16) (s : State)

theorem exec_add : exec (.add rd rs rt) s =
    s.finish rd (narrowSigned ((s.readReg rs).toInt + (s.readReg rt).toInt)) := rfl

theorem exec_addi : exec (.addi rd rs imm) s = s.finish rd (narrowSigned ((s.readReg rs).toInt + imm.toInt)) := by
  rw [← sext16_toInt]; rfl

theorem exec_addu : exec (.addu rd rs rt) s =
    s.finish rd (narrowUnsigned (((s.readReg rs).toNat : Int) + ((s.readReg rt).toNat : Int))) := rfl

theorem exec_addui : exec (.addui rd rs imm) s =
    s.finish rd (narrowUnsigned (((s.readReg rs).toNat : Int) + (imm.toNat : Int))) := by
  rw [← unsignedInt_zext16]; rfl

theorem exec_sub : exec (.sub rd rs rt) s =
    s.finish rd (narrowSigned ((s.readReg rs).toInt - (s.readReg rt).toInt)) := rfl

theorem exec_subi : exec (.subi rd rs imm) s = s.finish rd (narrowSigned ((s.readReg rs).toInt - imm.toInt)) := by
  rw [← sext16_toInt]; rfl

theorem exec_subu : exec (.subu rd rs rt) s =
    s.finish rd (narrowUnsigned (((s.readReg rs).toNat : Int) - ((s.readReg rt).toNat : Int))) := rfl

theorem exec_subui : exec (.subui rd rs imm) s =
    s.finish rd (narrowUnsigned (((s.readReg rs).toNat : Int) - (imm.toNat : Int))) := by
  rw [← unsignedInt_zext16]; rfl

theorem exec_mult : exec (.mult rd rs rt) s =
    s.finish rd (narrowSigned ((s.readReg rs).toInt * (s.readReg rt).toInt)) := rfl

theorem exec_multi : exec (.multi rd rs imm) s = s.finish rd (narrowSigned ((s.readReg rs).toInt * imm.toInt)) := by
  rw [← sext16_toInt]; rfl

theorem exec_multu : exec (.multu rd rs rt) s =
    s.finish rd (narrowUnsigned (((s.readReg rs).toNat : Int) * ((s.readReg rt).toNat : Int))) := rfl

theorem exec_multui : exec (.multui rd rs imm) s =
    s.finish rd (narrowUnsigned (((s.readReg rs).toNat : Int) * (imm.toNat : Int))) := by
  rw [← unsignedInt_zext16]; rfl

end

/-- Settles O12: each of the six instructions narrows its exact result by the signed criterion, which keeps what fits. -/
theorem signedSumDifferenceProductAreExact : Obligations.SignedSumDifferenceProductAreExact := by
  intro s rd rs rt imm
  exact
    ⟨writes_exact_signed (exec_add rd rs rt s), writes_exact_signed (exec_addi rd rs imm s),
      writes_exact_signed (exec_sub rd rs rt s), writes_exact_signed (exec_subi rd rs imm s),
      writes_exact_signed (exec_mult rd rs rt s), writes_exact_signed (exec_multi rd rs imm s)⟩

/-- Settles O13: each of the six instructions narrows its exact result by the unsigned criterion, which keeps what fits. -/
theorem unsignedSumDifferenceProductAreExact : Obligations.UnsignedSumDifferenceProductAreExact := by
  intro s rd rs rt imm
  exact
    ⟨writes_exact_unsigned (exec_addu rd rs rt s), writes_exact_unsigned (exec_addui rd rs imm s),
      writes_exact_unsigned (exec_subu rd rs rt s), writes_exact_unsigned (exec_subui rd rs imm s),
      writes_exact_unsigned (exec_multu rd rs rt s), writes_exact_unsigned (exec_multui rd rs imm s)⟩

/-- Settles O14: each of the six instructions narrows its exact result by the signed criterion, which raises Overflow for
what does not fit. -/
theorem signedOverflowTraps : Obligations.SignedOverflowTraps := by
  intro s rd rs rt imm
  exact
    ⟨raises_signed_overflow (exec_add rd rs rt s), raises_signed_overflow (exec_addi rd rs imm s),
      raises_signed_overflow (exec_sub rd rs rt s), raises_signed_overflow (exec_subi rd rs imm s),
      raises_signed_overflow (exec_mult rd rs rt s), raises_signed_overflow (exec_multi rd rs imm s)⟩

/-- Settles O15: each of the six instructions narrows its exact result by the unsigned criterion, which raises Overflow for
what does not fit. -/
theorem unsignedOverflowTraps : Obligations.UnsignedOverflowTraps := by
  intro s rd rs rt imm
  exact
    ⟨raises_unsigned_overflow (exec_addu rd rs rt s), raises_unsigned_overflow (exec_addui rd rs imm s),
      raises_unsigned_overflow (exec_subu rd rs rt s), raises_unsigned_overflow (exec_subui rd rs imm s),
      raises_unsigned_overflow (exec_multu rd rs rt s), raises_unsigned_overflow (exec_multui rd rs imm s)⟩

/-! ### Quotients and remainders -/

theorem toInt_ne_zero {v : Word} (h : v ≠ 0#32) : v.toInt ≠ 0 :=
  fun hv => h (BitVec.toInt_inj.1 (hv.trans BitVec.toInt_zero.symm))

theorem fitsSigned_toInt (v : Word) : FitsSigned v.toInt := by
  have := v.le_toInt
  have := v.toInt_lt
  omega

/-- The one signed quotient of 32-bit values that does not fit is that of -2^31 by -1 (R99 (g)). -/
theorem fitsSigned_tdiv {a b : Int} (ha : FitsSigned a) (hc : ¬ SignedDivisionCorner a b) :
    FitsSigned (a.tdiv b) := by
  have habs : (a.tdiv b).natAbs = a.natAbs / b.natAbs := Int.natAbs_tdiv a b
  by_cases hsmall : b.natAbs ≤ 1
  · rcases (by omega : b = 0 ∨ b = 1 ∨ b = -1) with rfl | rfl | rfl
    · rw [Int.tdiv_zero]
      decide
    · rwa [Int.tdiv_one]
    · rw [Int.tdiv_neg, Int.tdiv_one]
      omega
  · have hhalf : a.natAbs / b.natAbs ≤ a.natAbs / 2 := Nat.div_le_div_left (by omega) (by omega)
    omega

theorem fitsSigned_tmod {a b : Int} (hb : FitsSigned b) (hb0 : b ≠ 0) : FitsSigned (a.tmod b) := by
  have habs : (a.tmod b).natAbs = a.natAbs % b.natAbs := Int.natAbs_tmod a b
  have hlt : a.natAbs % b.natAbs < b.natAbs := Nat.mod_lt _ (by omega)
  omega

theorem isSDivCorner_iff {a b : Word} : isSDivCorner a b = true ↔ SignedDivisionCorner a.toInt b.toInt := by
  have ha : a = 0x80000000#32 ↔ a.toInt = -2147483648 := by rw [← BitVec.toInt_inj]; rfl
  have hb : b = 0xFFFFFFFF#32 ↔ b.toInt = -1 := by rw [← BitVec.toInt_inj]; rfl
  rw [isSDivCorner, Bool.and_eq_true, beq_iff_eq, beq_iff_eq, ha, hb]

theorem divSigned_of_not_corner {a b : Word} (hb : b ≠ 0#32) (hc : ¬ SignedDivisionCorner a.toInt b.toInt) :
    divSigned a b = .value (BitVec.ofInt 32 (a.toInt.tdiv b.toInt)) := by
  rw [divSigned, if_neg hb, if_neg (isSDivCorner_iff.not.2 hc)]

theorem remSigned_of_not_corner {a b : Word} (hb : b ≠ 0#32) (hc : ¬ SignedDivisionCorner a.toInt b.toInt) :
    remSigned a b = .value (BitVec.ofInt 32 (a.toInt.tmod b.toInt)) := by
  rw [remSigned, if_neg hb, if_neg (isSDivCorner_iff.not.2 hc), Int.tmod_def]

theorem ne_zero_of_corner {a b : Word} (hc : SignedDivisionCorner a.toInt b.toInt) : b ≠ 0#32 := by
  rintro rfl
  exact absurd hc.2 (by decide)

section
variable {a b q r : Word} {e : Config.Exc}

theorem divSigned_of_corner_values (hc : SignedDivisionCorner a.toInt b.toInt)
    (h : Config.sdivMinByMinus1 = .values q r) : divSigned a b = .value q := by
  rw [divSigned, if_neg (ne_zero_of_corner hc), if_pos (isSDivCorner_iff.2 hc), h]

theorem divSigned_of_corner_raises (hc : SignedDivisionCorner a.toInt b.toInt)
    (h : Config.sdivMinByMinus1 = .raises e) : divSigned a b = .raise e := by
  rw [divSigned, if_neg (ne_zero_of_corner hc), if_pos (isSDivCorner_iff.2 hc), h]

theorem remSigned_of_corner_values (hc : SignedDivisionCorner a.toInt b.toInt)
    (h : Config.sdivMinByMinus1 = .values q r) : remSigned a b = .value r := by
  rw [remSigned, if_neg (ne_zero_of_corner hc), if_pos (isSDivCorner_iff.2 hc), h]

theorem remSigned_of_corner_raises (hc : SignedDivisionCorner a.toInt b.toInt)
    (h : Config.sdivMinByMinus1 = .raises e) : remSigned a b = .raise e := by
  rw [remSigned, if_neg (ne_zero_of_corner hc), if_pos (isSDivCorner_iff.2 hc), h]

end

theorem divUnsigned_of_ne_zero {a b : Word} (hb : b ≠ 0#32) : divUnsigned a b = .value (a / b) := by
  rw [divUnsigned, if_neg hb, ← BitVec.toNat_udiv, BitVec.ofNat_toNat, BitVec.setWidth_eq]

theorem remUnsigned_of_ne_zero {a b : Word} (hb : b ≠ 0#32) : remUnsigned a b = .value (a % b) := by
  rw [remUnsigned, if_neg hb, ← Nat.mod_def, ← BitVec.toNat_umod, BitVec.ofNat_toNat, BitVec.setWidth_eq]

section
variable {i : Instr} {s : State} {rd : RegId} {a b : Word}

theorem writes_signed_quotient (hexec : exec i s = s.finish rd (divSigned a b)) (hb : b ≠ 0#32)
    (hc : ¬ SignedDivisionCorner a.toInt b.toInt) :
    ∃ v t, v.toInt = a.toInt.tdiv b.toInt ∧ exec i s = .next t ∧ WritesReg s rd v t := by
  rw [divSigned_of_not_corner hb hc] at hexec
  obtain ⟨t, ht⟩ := completes_of_exec_eq_finish_value hexec
  exact ⟨_, t, toInt_ofInt_of_fitsSigned (fitsSigned_tdiv (fitsSigned_toInt a) hc), ht⟩

theorem writes_signed_remainder (hexec : exec i s = s.finish rd (remSigned a b)) (hb : b ≠ 0#32)
    (hc : ¬ SignedDivisionCorner a.toInt b.toInt) :
    ∃ v t, v.toInt = a.toInt - b.toInt * a.toInt.tdiv b.toInt ∧ exec i s = .next t ∧ WritesReg s rd v t := by
  rw [remSigned_of_not_corner hb hc] at hexec
  obtain ⟨t, ht⟩ := completes_of_exec_eq_finish_value hexec
  rw [← Int.tmod_def]
  exact ⟨_, t, toInt_ofInt_of_fitsSigned (fitsSigned_tmod (fitsSigned_toInt b) (toInt_ne_zero hb)), ht⟩

theorem writes_unsigned_quotient (hexec : exec i s = s.finish rd (divUnsigned a b)) (hb : b ≠ 0#32) :
    ∃ v t, v.toNat = a.toNat / b.toNat ∧ exec i s = .next t ∧ WritesReg s rd v t := by
  rw [divUnsigned_of_ne_zero hb] at hexec
  obtain ⟨t, ht⟩ := completes_of_exec_eq_finish_value hexec
  exact ⟨_, t, BitVec.toNat_udiv, ht⟩

theorem writes_unsigned_remainder (hexec : exec i s = s.finish rd (remUnsigned a b)) (hb : b ≠ 0#32) :
    ∃ v t, v.toNat = a.toNat % b.toNat ∧ exec i s = .next t ∧ WritesReg s rd v t := by
  rw [remUnsigned_of_ne_zero hb] at hexec
  obtain ⟨t, ht⟩ := completes_of_exec_eq_finish_value hexec
  exact ⟨_, t, BitVec.toNat_umod, ht⟩

end

section
variable (rd rs rt : RegId) (imm : Imm16) (s : State)

theorem exec_div : exec (.div rd rs rt) s = s.finish rd (divSigned (s.readReg rs) (s.readReg rt)) := rfl
theorem exec_divi : exec (.divi rd rs imm) s = s.finish rd (divSigned (s.readReg rs) (sext16 imm)) := rfl
theorem exec_divu : exec (.divu rd rs rt) s = s.finish rd (divUnsigned (s.readReg rs) (s.readReg rt)) := rfl
theorem exec_divui : exec (.divui rd rs imm) s = s.finish rd (divUnsigned (s.readReg rs) (zext16 imm)) := rfl
theorem exec_rem : exec (.rem rd rs rt) s = s.finish rd (remSigned (s.readReg rs) (s.readReg rt)) := rfl
theorem exec_remi : exec (.remi rd rs imm) s = s.finish rd (remSigned (s.readReg rs) (sext16 imm)) := rfl
theorem exec_remu : exec (.remu rd rs rt) s = s.finish rd (remUnsigned (s.readReg rs) (s.readReg rt)) := rfl
theorem exec_remui : exec (.remui rd rs imm) s = s.finish rd (remUnsigned (s.readReg rs) (zext16 imm)) := rfl

end

/-- Settles O16: off the corner the exact quotient and remainder fit, so they are the values written; an immediate divisor is
the word it extends to. -/
theorem signedQuotientAndRemainder : Obligations.SignedQuotientAndRemainder := by
  intro s rd rs rt imm
  rw [← sext16_toInt imm, ne_eq, ne_eq, ← sext16_eq_zero_iff]
  exact
    ⟨writes_signed_quotient (exec_div rd rs rt s), writes_signed_quotient (exec_divi rd rs imm s),
      writes_signed_remainder (exec_rem rd rs rt s), writes_signed_remainder (exec_remi rd rs imm s)⟩

/-- Settles O17: the unsigned quotient and remainder always fit; an immediate divisor is the word it extends to. -/
theorem unsignedQuotientAndRemainder : Obligations.UnsignedQuotientAndRemainder := by
  intro s rd rs rt imm
  rw [← zext16_toNat imm, ne_eq, ne_eq, ← zext16_eq_zero_iff]
  exact
    ⟨writes_unsigned_quotient (exec_divu rd rs rt s), writes_unsigned_quotient (exec_divui rd rs imm s),
      writes_unsigned_remainder (exec_remu rd rs rt s), writes_unsigned_remainder (exec_remui rd rs imm s)⟩

/-! ### The exceptions of division -/

section
variable {i : Instr} {s : State} {rd : RegId} {a b : Word} {r : Word → Word → Arith}

/-- An instruction whose operation raises DivideByZero for a zero divisor raises it where its divisor is zero. -/
theorem raises_divideByZero (hr : r a 0#32 = .raise .divideByZero) (hexec : exec i s = s.finish rd (r a b))
    (hb : b = 0#32) : ∃ t, exec i s = .next t ∧ Raises s .divideByZero t := by
  rw [hb, hr] at hexec
  exact raises_of_exec_eq_finish_raise hexec

end

/-- Settles O18: a zero divisor is the first branch of each of the four operations, and the zero immediate extends to zero. -/
theorem divisionByZeroTraps : Obligations.DivisionByZeroTraps := by
  intro s rd rs rt
  have hsext : sext16 0#16 = 0#32 := sext16_eq_zero_iff.2 rfl
  have hzext : zext16 0#16 = 0#32 := zext16_eq_zero_iff.2 rfl
  exact
    ⟨raises_divideByZero rfl (exec_div rd rs rt s), raises_divideByZero rfl (exec_divu rd rs rt s),
      raises_divideByZero rfl (exec_rem rd rs rt s), raises_divideByZero rfl (exec_remu rd rs rt s),
      raises_divideByZero rfl (exec_divi rd rs 0#16 s) hsext, raises_divideByZero rfl (exec_divui rd rs 0#16 s) hzext,
      raises_divideByZero rfl (exec_remi rd rs 0#16 s) hsext, raises_divideByZero rfl (exec_remui rd rs 0#16 s) hzext⟩

/-- Settles O19: by what the open parameter is; at the corner the quotient and the remainder are what it gives. -/
theorem signedDivisionCornerIsTheOpenParameter : Obligations.SignedDivisionCornerIsTheOpenParameter := by
  intro s rd rs rt imm
  rw [← sext16_toInt imm]
  cases h : Config.sdivMinByMinus1 with
  | values q r =>
    refine ⟨fun hc => ?_, fun hc => ?_, fun hc => ?_, fun hc => ?_⟩
    · exact completes_of_exec_eq_finish_value (divSigned_of_corner_values hc h ▸ exec_div rd rs rt s)
    · exact completes_of_exec_eq_finish_value (divSigned_of_corner_values hc h ▸ exec_divi rd rs imm s)
    · exact completes_of_exec_eq_finish_value (remSigned_of_corner_values hc h ▸ exec_rem rd rs rt s)
    · exact completes_of_exec_eq_finish_value (remSigned_of_corner_values hc h ▸ exec_remi rd rs imm s)
  | raises e =>
    refine ⟨fun hc => ?_, fun hc => ?_, fun hc => ?_, fun hc => ?_⟩
    · exact raises_of_exec_eq_finish_raise (divSigned_of_corner_raises hc h ▸ exec_div rd rs rt s)
    · exact raises_of_exec_eq_finish_raise (divSigned_of_corner_raises hc h ▸ exec_divi rd rs imm s)
    · exact raises_of_exec_eq_finish_raise (remSigned_of_corner_raises hc h ▸ exec_rem rd rs rt s)
    · exact raises_of_exec_eq_finish_raise (remSigned_of_corner_raises hc h ▸ exec_remi rd rs imm s)

/-! ### The division identity -/

/-- Reading the destination of a completed register write, where it is not register 0. -/
theorem readReg_of_writes {i : Instr} {s t u : State} {rd : RegId} {v : Word} (hrd : rd ≠ 0#4)
    (ht : exec i s = .next t) (hu : exec i s = .next u) (hw : WritesReg s rd v u) : t.readReg rd = v := by
  obtain rfl : t = u := by
    rw [ht] at hu
    exact Host.Outcome.next.inj hu
  obtain ⟨_, hreg, _⟩ := hw
  rw [hreg, if_neg hrd, if_pos rfl]

/-- Settles O20: the values the four instructions write are the quotients and remainders of `Nat` and, truncating, of `Int`,
which satisfy the identity. -/
theorem divisionIdentity : Obligations.DivisionIdentity := by
  intro s tq tr rd rs rt hrd hrt
  obtain ⟨hdiv, _, hrem, _⟩ := signedQuotientAndRemainder s rd rs rt 0#16
  obtain ⟨hdivu, _, hremu, _⟩ := unsignedQuotientAndRemainder s rd rs rt 0#16
  refine ⟨fun hq hr => ?_, fun hc hq hr => ?_⟩
  · obtain ⟨q, _, hqv, hqe, hqw⟩ := hdivu hrt
    obtain ⟨r, _, hrv, hre, hrw⟩ := hremu hrt
    rw [readReg_of_writes hrd hq hqe hqw, readReg_of_writes hrd hr hre hrw, hqv, hrv]
    have hpos : 0 < (s.readReg rt).toNat := Nat.pos_of_ne_zero fun h => hrt (BitVec.eq_of_toNat_eq h)
    exact ⟨(Nat.div_add_mod _ _).symm, Nat.mod_lt _ hpos⟩
  · obtain ⟨q, _, hqv, hqe, hqw⟩ := hdiv hrt hc
    obtain ⟨r, _, hrv, hre, hrw⟩ := hrem hrt hc
    rw [readReg_of_writes hrd hq hqe hqw, readReg_of_writes hrd hr hre hrw, hqv, hrv, ← Int.tmod_def]
    refine ⟨(Int.mul_tdiv_add_tmod _ _).symm, ?_, fun h => Int.tmod_nonneg _ h, fun h => ?_⟩
    · rw [Int.natAbs_tmod]
      exact Nat.mod_lt _ (Int.natAbs_pos.2 (toInt_ne_zero hrt))
    · have := Int.tmod_nonneg (s.readReg rt).toInt (Int.neg_nonneg.2 h)
      rw [Int.neg_tmod] at this
      exact Int.neg_nonneg.1 this

end Sys2Proof.Machine
end

section
/-! PROOFS. The symmetries of the test instructions of 42_test.md. -/

namespace Sys2Proof.Machine

theorem toInt_eq_iff_unsignedInt_eq {v w : Word} : v.toInt = w.toInt ↔ unsignedInt v = unsignedInt w := by
  rw [unsignedInt_inj_iff, BitVec.toInt_inj, BitVec.toNat_inj]

section
variable (rd rs rt : RegId) (s : State)

theorem exec_seq_eq_sequ : exec (.seq rd rs rt) s = exec (.sequ rd rs rt) s := by
  change execSeq rd rs rt s = execSequ rd rs rt s
  simp only [execSeq, execSequ, toInt_eq_iff_unsignedInt_eq]

theorem exec_sne_eq_sneu : exec (.sne rd rs rt) s = exec (.sneu rd rs rt) s := by
  change execSne rd rs rt s = execSneu rd rs rt s
  simp only [execSne, execSneu, ne_eq, toInt_eq_iff_unsignedInt_eq]

end

section
variable {i : Instr} {s : State} {rd : RegId} {q : Prop} [Decidable q]

theorem writes_zero_of_not (hexec : exec i s = s.writeNext rd (testWord (decide q))) (h : ¬ q) :
    ∃ t, exec i s = .next t ∧ WritesReg s rd 0#32 t :=
  completes_of_exec_eq_testWord (p := False) hexec (iff_false_intro h)

theorem writes_one_of (hexec : exec i s = s.writeNext rd (testWord (decide q))) (h : q) :
    ∃ t, exec i s = .next t ∧ WritesReg s rd 1#32 t :=
  completes_of_exec_eq_testWord (p := True) hexec (iff_true_intro h)

end

/-- Settles O26: exchanged sources make the same comparison, a word has one signed and one unsigned value, and a value is
neither less than, greater than nor unequal to itself. -/
theorem testSymmetries : Obligations.TestSymmetries := by
  intro s rd rs rt
  refine ⟨rfl, rfl, rfl, rfl, exec_seq_eq_sequ rd rs rt s, exec_sne_eq_sneu rd rs rt s, ?zero, ?one⟩
  case zero =>
    simp only [List.forall_mem_cons, List.not_mem_nil, false_implies, implies_true, and_true]
    exact
      ⟨writes_zero_of_not rfl (lt_irrefl _), writes_zero_of_not rfl (lt_irrefl _), writes_zero_of_not rfl (lt_irrefl _),
        writes_zero_of_not rfl (lt_irrefl _), writes_zero_of_not rfl fun h => h rfl,
        writes_zero_of_not rfl fun h => h rfl⟩
  case one =>
    simp only [List.forall_mem_cons, List.not_mem_nil, false_implies, implies_true, and_true]
    exact
      ⟨writes_one_of rfl (le_refl _), writes_one_of rfl (le_refl _), writes_one_of rfl (le_refl _),
        writes_one_of rfl (le_refl _), writes_one_of rfl rfl, writes_one_of rfl rfl⟩

end Sys2Proof.Machine
end

section
/-! PROOFS. Registers, reset and the absolute jumps: register 0 (10_state.md section 1), the reset values (10_state.md section
8), `j`, `jal` and `jalr` (43_branch.md). -/

namespace Sys2Proof.Machine

/-- Settles O8, by the two laws of the register accessors. -/
theorem registerZeroIsHardwired : Obligations.RegisterZeroIsHardwired :=
  ⟨readReg_writeReg, writeReg_zero⟩

/-- Settles O9: the reset value of the control register has the kernel bit alone. -/
theorem resetLeavesKernelModeInterruptsOff : Obligations.ResetLeavesKernelModeInterruptsOff :=
  ⟨rfl, rfl, readReg_zero State.reset, rfl⟩

/-- Settles O10: memory lists no cell after reset. -/
theorem resetMemoryIsCanonical : Obligations.ResetMemoryIsCanonical := rfl

/-- An instruction whose meaning is a register write and a jump completes, with the whole effect of both. -/
theorem completes_of_exec_eq_writeReg_setPc {i : Instr} {s : State} {rd : RegId} {v : Word} {a : Addr}
    (h : exec i s = .next ((s.writeReg rd v).setPc a)) : ∃ t, exec i s = .next t ∧ WritesRegGoing s rd v a t :=
  ⟨_, h, writeReg_setPc_spec s rd v a⟩

theorem exec_j (addr : Imm20) (s : State) : exec (.j addr) s = .next (s.setPc addr) := rfl

theorem exec_jal (addr : Imm20) (s : State) :
    exec (.jal addr) s = .next ((s.writeReg 15#4 (zext20 (s.pc + 1#20))).setPc addr) := rfl

theorem exec_jalr {rs : RegId} (h : rs ≠ 15#4) (s : State) : exec (.jalr rs) s =
    .next ((s.writeReg 15#4 (zext20 (s.pc + 1#20))).setPc ((s.readReg rs).extractLsb' 0 20)) :=
  if_neg h

/-- Settles O28: `j` is a `State.setPc`, which at the state's own program counter is the identity. -/
theorem jumpToAddress : Obligations.JumpToAddress := by
  intro s addr
  exact ⟨decode_j_word addr, completes_of_exec_eq_setPc (exec_j addr s), exec_j s.pc s⟩

/-- Settles O29: both write register 15 and jump; the target of `jalr` is read before the write. -/
theorem jumpAndLink : Obligations.JumpAndLink := by
  intro s rs addr
  exact ⟨completes_of_exec_eq_writeReg_setPc (exec_jal addr s),
    fun h => completes_of_exec_eq_writeReg_setPc (exec_jalr h s)⟩

/-- Settles O30: the first branch of `execJalr`. -/
theorem jalrThroughTheLinkRegisterIsRefused : Obligations.JalrThroughTheLinkRegisterIsRefused :=
  fun _ => rfl

end Sys2Proof.Machine
end

section
/-! PROOFS. Memory accesses of 20_memory.md and 44_memory_instructions.md: `lw`, `sw` and the fetch, by what is at the address
and by the mode. -/

namespace Sys2Proof.Machine

/-! ### The effective address -/

theorem low20_eq_setWidth (v : Word) : low20 v = v.setWidth 20 := by
  apply BitVec.eq_of_toNat_eq
  rw [low20, BitVec.extractLsb'_toNat, BitVec.toNat_setWidth, Nat.shiftRight_zero]

theorem low20_sext20 (off : Imm20) : low20 (sext20 off) = off := by
  apply BitVec.eq_of_getLsbD_eq
  intro n hn
  rw [low20_eq_setWidth, sext20, BitVec.getLsbD_setWidth, BitVec.getLsbD_signExtend, if_pos hn]
  simp [hn, (by omega : n < 32)]

/-- Settles O32: the low 20 bits of a sum are the sum of the low 20 bits, and the low 20 bits of the extended offset are the
offset. -/
theorem effectiveAddressWraps : Obligations.EffectiveAddressWraps := by
  intro base off
  have hsum : low20 (base + sext20 off) = low20 base + low20 (sext20 off) := by
    simp only [low20_eq_setWidth]
    exact BitVec.setWidth_add _ _ (by decide)
  rw [effectiveAddr, hsum, low20_sext20, low20]

/-! ### Accesses -/

section
variable {s : State} {a p : Addr} {k : Config.AccessKind} {v : Word}

theorem memRead_ram (h : kindAt s.memMap a = .ram) : s.memRead a = .done (Memory.word s.mem a) s := by
  simp only [State.memRead, h]

theorem memRead_device (h : kindAt s.memMap a = .device) :
    s.memRead a = .done (Config.deviceAnswer s.draws a) (s.logDevice (.read a)).drawn := by
  simp only [State.memRead, h]

theorem memRead_unmapped (h : kindAt s.memMap a = .unmapped) : s.memRead a = .absent a := by
  simp only [State.memRead, h]

theorem memWrite_ram (h : kindAt s.memMap a = .ram) :
    s.memWrite a v = .done () (s.setMem (Memory.setWord s.mem a v)) := by
  simp only [State.memWrite, h]

theorem memWrite_device (h : kindAt s.memMap a = .device) : s.memWrite a v = .done () (s.logDevice (.write a v)) := by
  simp only [State.memWrite, h]

theorem memWrite_unmapped (h : kindAt s.memMap a = .unmapped) : s.memWrite a v = .absent a := by
  simp only [State.memWrite, h]

theorem load_of_physical (h : s.translate a k = .physical p) : s.load a k = s.memRead p := by
  simp only [State.load, h]

theorem load_of_violation (h : s.translate a k = .violation) : s.load a k = .violation := by
  simp only [State.load, h]

theorem store_of_physical (h : s.translate a .store = .physical p) : s.store a v = s.memWrite p v := by
  simp only [State.store, h]

theorem store_of_violation (h : s.translate a .store = .violation) : s.store a v = .violation := by
  simp only [State.store, h]

theorem load_kernel (h : s.ku = .kernel) : s.load a k = s.memRead a := load_of_physical (translate_kernel s a k h)

theorem store_kernel (h : s.ku = .kernel) : s.store a v = s.memWrite a v :=
  store_of_physical (translate_kernel s a .store h)

end

/-! ### `lw` and `sw` by what their access comes to -/

section
variable {s u : State} {rd rs : RegId} {off : Imm20} {a : Addr} {v : Word}

theorem exec_lw_done (h : s.load (effectiveAddr (s.readReg rs) off) .load = .done v u) :
    exec (.lw rd rs off) s = u.writeNext rd v := by
  simp only [exec, execLw, h]

theorem exec_lw_violation (h : s.load (effectiveAddr (s.readReg rs) off) .load = .violation) :
    exec (.lw rd rs off) s = .next (s.raise .accessViolation) := by
  simp only [exec, execLw, h]

theorem exec_lw_absent (h : s.load (effectiveAddr (s.readReg rs) off) .load = .absent a) :
    exec (.lw rd rs off) s = .fault (.unmapped a .load) := by
  simp only [exec, execLw, h]

theorem exec_sw_done (h : s.store (effectiveAddr (s.readReg rs) off) (s.readReg rd) = .done () u) :
    exec (.sw rd rs off) s = .next u.advance := by
  simp only [exec, execSw, h]

theorem exec_sw_violation (h : s.store (effectiveAddr (s.readReg rs) off) (s.readReg rd) = .violation) :
    exec (.sw rd rs off) s = .next (s.raise .accessViolation) := by
  simp only [exec, execSw, h]

theorem exec_sw_absent (h : s.store (effectiveAddr (s.readReg rs) off) (s.readReg rd) = .absent a) :
    exec (.sw rd rs off) s = .fault (.unmapped a .store) := by
  simp only [exec, execSw, h]

theorem exec_lw_kernel_ram (hk : s.ku = .kernel) (hm : kindAt s.memMap (effectiveAddr (s.readReg rs) off) = .ram) :
    exec (.lw rd rs off) s = s.writeNext rd (Memory.word s.mem (effectiveAddr (s.readReg rs) off)) :=
  exec_lw_done ((load_kernel hk).trans (memRead_ram hm))

theorem exec_sw_kernel_ram (hk : s.ku = .kernel) (hm : kindAt s.memMap (effectiveAddr (s.readReg rs) off) = .ram) :
    exec (.sw rd rs off) s =
      .next (s.setMem (Memory.setWord s.mem (effectiveAddr (s.readReg rs) off) (s.readReg rd))).advance :=
  exec_sw_done ((store_kernel hk).trans (memWrite_ram hm))

end

/-- Settles O33: in kernel mode the access is a memory read at the effective address itself. -/
theorem loadWordInKernelMode : Obligations.LoadWordInKernelMode := by
  intro s rd rs off hk hm
  rw [exec_lw_kernel_ram hk hm]
  exact writeNext_spec s rd _

/-- Settles O34: in kernel mode the access is a memory write at the effective address itself. -/
theorem storeWordInKernelMode : Obligations.StoreWordInKernelMode := by
  intro s rd rs off hk hm
  exact ⟨_, exec_sw_kernel_ram hk hm, setWord_advance_spec s _ _⟩

/-- Reading a word after a word store (R50). -/
theorem word_setWord (m : Memory) (a b : Addr) (v : Word) :
    Memory.word (Memory.setWord m a v) b = if b = a then v else Memory.word m b := by
  split_ifs with h
  · rw [h, Memory.word_setWord_same]
  · exact Memory.word_setWord_other m a b v h

/-- Settles O38: the state after `sw` is in kernel mode, and its memory reads the stored word at the store's address and the
old word at any other (R50). -/
theorem loadReturnsTheLastStore : Obligations.LoadReturnsTheLastStore := by
  intro s rd rs rd' rs' off off' hk hm
  have hsw := exec_sw_kernel_ram (rd := rd) hk hm
  generalize ht : (s.setMem _).advance = t at hsw
  have hkt : t.ku = .kernel := by rw [← ht, State.advance_ku, State.setMem_ku, hk]
  have hmem : t.mem = Memory.setWord s.mem (effectiveAddr (s.readReg rs) off) (s.readReg rd) := by rw [← ht]; rfl
  have hmap : t.memMap = s.memMap := by rw [← ht]; rfl
  refine ⟨t, hsw, fun hmt => ?_⟩
  rw [← hmap] at hmt
  rw [exec_lw_kernel_ram hkt hmt, hmem, word_setWord]
  exact writeNext_spec t rd' _

/-- Settles O39: after the store the program counter is the address stored to, where the fetch in kernel mode reads the stored
word. -/
theorem storeIsSeenByTheNextFetch : Obligations.StoreIsSeenByTheNextFetch := by
  intro s rd rs off hk hm hpc
  refine ⟨_, exec_sw_kernel_ram hk hm, ?_⟩
  rw [State.fetch, State.advance_pc, State.setMem_pc, nextAddr, ← hpc, load_kernel (by simpa using hk),
    memRead_ram (by simpa using hm), State.advance_mem, State.setMem_mem, Memory.word_setWord_same]

end Sys2Proof.Machine
end

section
/-! PROOFS. Taking an exception and returning from one (60_exceptions.md), and the special instructions of 45_special.md. -/

namespace Sys2Proof.Machine

/-! ### Trap entry and return -/

/-- Settles O47, by what `trapEntry_spec` says of trap entry. -/
theorem trapEntryEffect : Obligations.TrapEntryEffect := trapEntry_spec

/-- Settles O50: the second trap entry saves the bits the first one set and overwrites its return address. -/
theorem secondTrapLosesTheOuterContext : Obligations.SecondTrapLosesTheOuterContext := by
  intro s c d a b
  obtain ⟨_, _, hie, hku, _⟩ := trapEntry_spec s c a
  obtain ⟨hoie, hoku, _, _, hear, _⟩ := trapEntry_spec (s.trapEntry c a) d b
  exact ⟨hoie.trans hie, hoku.trans hku, hear⟩

theorem exec_rfe_kernel {s : State} (h : s.ku = .kernel) : exec .rfe s = .next s.returnFromTrap :=
  privileged_kernel s _ h

/-- Settles O46: in kernel mode the privilege check passes and `rfe` is `State.returnFromTrap`. -/
theorem returnFromException : Obligations.ReturnFromException := by
  intro s hk
  exact ⟨_, exec_rfe_kernel hk, returnFromTrap_spec s⟩

/-- Settles O49: trap entry leaves kernel mode, the saved bits and the return address behind, which is what `rfe` restores;
neither touches a general register, memory or the surroundings. -/
theorem returnAfterTrapRestoresTheContext : Obligations.ReturnAfterTrapRestoresTheContext := by
  intro s c ret
  obtain ⟨hoie, hoku, _, hku, hear, _, _, _, _, hregs, hmem, hout⟩ := trapEntry_spec s c ret
  obtain ⟨hie', hku', _, _, hpc', _, _, hregs', hmem', hout'⟩ := returnFromTrap_spec (s.trapEntry c ret)
  refine ⟨_, exec_rfe_kernel hku, hie'.trans hoie, hku'.trans hoku, ?_, fun r => (hregs' r).trans (hregs r),
    fun k => (hmem' k).trans (hmem k), ?_⟩
  · rw [hpc', hear, low20_zext20]
  · obtain ⟨hp, hm, hl, hd⟩ := hout
    obtain ⟨hp', hm', hl', hd'⟩ := hout'
    exact ⟨hp'.trans hp, hm'.trans hm, hl'.trans hl, hd'.trans hd⟩

/-! ### `break` and `syscall` -/

/-- An instruction whose meaning is `State.raise` completes, with the whole effect of trap entry. -/
theorem raises_of_exec_eq_raise {i : Instr} {s : State} {e : Config.Exc} (h : exec i s = .next (s.raise e)) :
    ∃ t, exec i s = .next t ∧ Raises s e t :=
  ⟨_, h, raise_spec s e⟩

/-- Settles O45: neither instruction has another branch. -/
theorem breakAndSyscallAlwaysRaise : Obligations.BreakAndSyscallAlwaysRaise :=
  fun _ => ⟨raises_of_exec_eq_raise rfl, raises_of_exec_eq_raise rfl⟩

/-! ### `movgs` and `movsg` -/

section
variable {s : State} {rd rs : RegId}

theorem exec_movgs_kernel (hk : s.ku = .kernel) (h : sprImplemented rd = true) :
    exec (.movgs rd rs) s = .next (s.writeSpr rd (s.readReg rs)).advance :=
  (privileged_kernel s _ hk).trans (if_pos h)

theorem exec_movsg_kernel (hk : s.ku = .kernel) (h : sprImplemented rs = true) :
    exec (.movsg rd rs) s = s.writeNext rd (s.readSpr rs) :=
  (privileged_kernel s _ hk).trans (if_pos h)

theorem exec_movgs_not_implemented (hk : s.ku = .kernel) (h : sprImplemented rd = false) :
    exec (.movgs rd rs) s = .refused (.specialRegisterNotImplemented rd) :=
  (privileged_kernel s _ hk).trans (if_neg (Bool.not_eq_true _ ▸ h))

theorem exec_movsg_not_implemented (hk : s.ku = .kernel) (h : sprImplemented rs = false) :
    exec (.movsg rd rs) s = .refused (.specialRegisterNotImplemented rs) :=
  (privileged_kernel s _ hk).trans (if_neg (Bool.not_eq_true _ ▸ h))

end

/-- Settles O40: in kernel mode `movgs` to an implemented register is `State.writeSpr` with fall-through. -/
theorem moveToSpecialRegister : Obligations.MoveToSpecialRegister := by
  intro s rd rs hk h
  exact ⟨_, exec_movgs_kernel hk h, writeSpr_advance_spec s rd _⟩

/-- Settles O44: in kernel mode the check of the specifier fails. -/
theorem unimplementedSpecialRegisterIsRefused : Obligations.UnimplementedSpecialRegisterIsRefused := by
  intro s a b hk h
  exact ⟨exec_movgs_not_implemented hk h, exec_movsg_not_implemented hk h⟩

/-- Settles O43: in user mode the privilege check answers before anything else is looked at. -/
theorem privilegedInstructionsTrapInUserMode : Obligations.PrivilegedInstructionsTrapInUserMode := by
  intro s rd rs hu
  exact ⟨raises_of_exec_eq_raise (privileged_user s _ hu), raises_of_exec_eq_raise (privileged_user s _ hu),
    raises_of_exec_eq_raise (privileged_user s _ hu)⟩

theorem modeOf_eq_kernel_iff (b : Bool) : modeOf b = .kernel ↔ b = true := by
  cases b <;> simp [modeOf, kernelBit]

/-- Settles O42: the control bits and the mask are read from the control register, which holds what `movgs` wrote. -/
theorem controlRegisterWriteSetsTheControlBits : Obligations.ControlRegisterWriteSetsTheControlBits := by
  intro s rs hk
  obtain ⟨t, ht, _, _, hspr, _⟩ := moveToSpecialRegister s sprCtrl rs hk rfl
  have hctrl : t.readSpr sprCtrl = s.readReg rs := by rw [hspr, if_pos rfl]
  refine ⟨t, ht, hctrl, ?_, ?_, ?_, ?_, ?_⟩
  · rw [State.ie, hctrl, bitIE]
  · rw [State.ku, hctrl, modeOf_eq_kernel_iff, bitKU]
  · rw [State.oie, hctrl, bitOIE]
  · rw [State.oku, hctrl, modeOf_eq_kernel_iff, bitOKU]
  · rw [State.irqMask, hctrl, irqMaskLow]

end Sys2Proof.Machine
end

section
/-! PROOFS. One step (R225, R226, R257): interrupt sampling, the fetch, the counting, and what follows from them about `lw`,
`sw` and `movsg`. -/

namespace Sys2Proof.Machine

/-! ### The branches of a step -/

section
variable {s s0 s1 : State} {w : Word} {i : Instr} {e : DecodeError} {a : Addr}

theorem sampleInterrupt_of_not_deliverable (h : s.deliverable = 0#8) : s.sampleInterrupt = .notTaken s :=
  if_pos h

theorem step_taken (h0 : s.sampleInterrupt = .taken s0) : step s = .next s0 := by
  simp only [step, h0]

theorem step_notTaken (h0 : s.sampleInterrupt = .notTaken s0) : step s = instructionStep s0 := by
  simp only [step, h0]

theorem step_not_deliverable (h : s.deliverable = 0#8) : step s = instructionStep s :=
  step_notTaken (sampleInterrupt_of_not_deliverable h)

theorem instructionStep_runs (hf : s.fetch = .done w s1) (hi : decode w = .ok i) :
    instructionStep s = exec i (s1.countedFor i) := by
  simp only [instructionStep, hf, hi]

theorem instructionStep_illegal (hf : s.fetch = .done w s1) (he : decode w = .error e) :
    instructionStep s = .next (s1.raise .illegalInstruction) := by
  simp only [instructionStep, hf, he]

theorem instructionStep_violation (hf : s.fetch = .violation) : instructionStep s = .next s.fetchViolation := by
  simp only [instructionStep, hf]

theorem instructionStep_absent (hf : s.fetch = .absent a) : instructionStep s = .fault (.unmapped a .fetch) := by
  simp only [instructionStep, hf]

end

/-! ### Counting -/

theorem countedFor_eq_self {s : State} {i : Instr}
    (h : s.ku = .user ∨ ∀ rd : RegId, i ≠ .movsg rd 6#4 ∧ i ≠ .movsg rd 7#4) : s.countedFor i = s := by
  rcases countedFor_cases s i with hself | ⟨rd, r, hi, hr, hk, _⟩
  · exact hself
  · rcases h with hu | hne
    · rw [hk] at hu
      cases hu
    · obtain ⟨h6, h7⟩ := hne rd
      rcases hr with rfl | rfl
      · exact absurd hi h6
      · exact absurd hi h7

theorem countedFor_movsg_counter {s : State} {rd rs : RegId} (hk : s.ku = .kernel) (hrs : rs = 6#4 ∨ rs = 7#4) :
    s.countedFor (.movsg rd rs) = s.counted rs := by
  have hread : counterRead (.movsg rd rs) = some rs := by rcases hrs with rfl | rfl <;> rfl
  simp only [State.countedFor, hread, hk]

/-- Settles O51: sampling and fetch select the branch of the step that runs the instruction; the counting is
`State.countedFor`. -/
theorem stepRunsDecodedInstruction : Obligations.StepRunsDecodedInstruction := by
  refine ⟨fun s s0 s1 w i h0 hf hi => ?_, fun s i hd hk hm hi => ?_, fun s i h => countedFor_eq_self h,
    fun s rd rs hk hrs => countedFor_movsg_counter hk hrs⟩
  · rw [step_notTaken h0, instructionStep_runs hf hi]
  · have hf : s.fetch = .done (Memory.word s.mem s.pc) s := (load_kernel hk).trans (memRead_ram hm)
    rw [step_not_deliverable hd, instructionStep_runs hf hi]

/-- Settles O52: sampling and fetch select the branch of the step that raises. -/
theorem illegalWordTraps : Obligations.IllegalWordTraps := by
  intro s s0 s1 w e h0 hf he
  exact ⟨_, (step_notTaken h0).trans (instructionStep_illegal hf he), raise_spec s1 _⟩

/-- Settles O41: `movsg` copies the cell; in a step that fetches a `movsg` of a counter, the cell it copies is the one the
counting has just written. -/
theorem moveFromSpecialRegister : Obligations.MoveFromSpecialRegister := by
  have hcopy : ∀ (s : State) (rd rs : RegId), s.ku = .kernel → sprImplemented rs = true →
      ∃ t, exec (.movsg rd rs) s = .next t ∧ WritesReg s rd (s.readSpr rs) t := by
    intro s rd rs hk h
    rw [exec_movsg_kernel hk h]
    exact writeNext_spec s rd _
  refine ⟨hcopy, fun s s0 s1 w rd rs h0 hf hk hi hrs => ?_⟩
  have himpl : sprImplemented rs = true := by rcases hrs with rfl | rfl <;> rfl
  have hcount := countedFor_movsg_counter (rd := rd) hk hrs
  obtain ⟨hcell, _⟩ := counted_spec s1 rs
  obtain ⟨_, hku, _⟩ := countedFor_control s1 (.movsg rd rs)
  rw [hcount, hk] at hku
  obtain ⟨t, ht, hw⟩ := hcopy (s1.counted rs) rd rs hku himpl
  rw [hcell rs, if_pos rfl] at hw
  exact ⟨t, by rw [step_notTaken h0, instructionStep_runs hf hi, hcount, ht], hw⟩

/-! ### Interrupts -/

theorem deliverable_of_ie {s : State} (h : s.ie = true) : s.deliverable = s.pending &&& s.irqMask := if_pos h

theorem deliverable_eq_zero {s : State} (h : s.ie = false ∨ s.pending &&& s.irqMask = 0#8) : s.deliverable = 0#8 := by
  unfold State.deliverable
  split_ifs with hie
  · exact h.resolve_left (by simp [hie])
  · rfl

/-- Settles O53: the deliverable lines are the pending and unmasked ones where IE is 1 and none where it is 0; where there is
one, the free choice of the draw selects trap entry or the instruction. -/
theorem interruptsBetweenInstructions : Obligations.InterruptsBetweenInstructions := by
  intro s
  refine ⟨fun h => step_not_deliverable (deliverable_eq_zero h), fun hie hlines => ?_⟩
  have hd := deliverable_of_ie hie
  rw [← hd] at hlines ⊢
  rcases sampleInterrupt_cases s with ⟨h0, _⟩ | ⟨_, htakes, hs⟩ | ⟨_, htakes, hs⟩
  · exact absurd h0 hlines
  · rw [if_pos htakes]
    exact ⟨_, step_taken hs, trapEntry_spec s.drawn _ _⟩
  · rw [if_neg (by simp [htakes])]
    exact step_notTaken hs

/-! ### Devices, unmapped addresses and user mode -/

/-- Settles O35: by what a device access is; the step from a fetch of a device runs or rejects the word the device answers. -/
theorem deviceAccessesInKernelMode : Obligations.DeviceAccessesInKernelMode := by
  intro s hk
  refine ⟨fun rd rs off hdev => ⟨?lw, ?sw⟩, fun hd hdev => ?fetch⟩
  case lw =>
    rw [exec_lw_done ((load_kernel hk).trans (memRead_device hdev))]
    exact writeNext_spec _ rd _
  case sw => exact ⟨_, exec_sw_done ((store_kernel hk).trans (memWrite_device hdev)), setPc_spec _ _⟩
  case fetch =>
    have hf : s.fetch = .done (Config.deviceAnswer s.draws s.pc) (s.logDevice (.read s.pc)).drawn :=
      (load_kernel hk).trans (memRead_device hdev)
    refine ⟨hf, ?_⟩
    cases hi : decode (Config.deviceAnswer s.draws s.pc) with
    | ok i => exact (step_not_deliverable hd).trans (instructionStep_runs hf hi)
    | error e => exact ⟨_, (step_not_deliverable hd).trans (instructionStep_illegal hf hi), raise_spec _ _⟩

/-- Settles O36: in kernel mode the access is made at the address itself, where nothing is. -/
theorem unmappedAccessStops : Obligations.UnmappedAccessStops := by
  intro s rd rs off hk
  refine ⟨fun hm => ⟨?_, ?_⟩, fun hd hm => ?_⟩
  · exact exec_lw_absent ((load_kernel hk).trans (memRead_unmapped hm))
  · exact exec_sw_absent ((store_kernel hk).trans (memWrite_unmapped hm))
  · exact (step_not_deliverable hd).trans (instructionStep_absent ((load_kernel hk).trans (memRead_unmapped hm)))

/-- A write to a device or to memory leaves the program counter. -/
theorem memWrite_done_pc {s u : State} {a : Addr} {v : Word} (h : s.memWrite a v = .done () u) : u.pc = s.pc := by
  rcases memWrite_done h with rfl | rfl <;> rfl

/-- Settles O37: in user mode the address of each access is what UserAccess answers, by which the access is a memory access
there or a violation. -/
theorem userAccessesGoThroughUserAccess : Obligations.UserAccessesGoThroughUserAccess := by
  intro s rd rs off hu
  refine ⟨?lw, ?sw, fun hd => ?fetch⟩
  case lw =>
    have htr := translate_user s (effectiveAddr (s.readReg rs) off) .load hu
    cases ha : Config.userAccess s.sprs s.mem (effectiveAddr (s.readReg rs) off) .load with
    | physical p =>
      have hload := load_of_physical (htr.trans ha)
      refine ⟨fun v u hr => ?_, fun hm => exec_lw_absent (hload.trans (memRead_unmapped hm))⟩
      rw [exec_lw_done (hload.trans hr)]
      exact writeNext_spec u rd v
    | violation => exact raises_of_exec_eq_raise (exec_lw_violation (load_of_violation (htr.trans ha)))
  case sw =>
    have htr := translate_user s (effectiveAddr (s.readReg rs) off) .store hu
    cases ha : Config.userAccess s.sprs s.mem (effectiveAddr (s.readReg rs) off) .store with
    | physical p =>
      have hstore := store_of_physical (v := s.readReg rd) (htr.trans ha)
      refine ⟨fun u hw => ⟨_, exec_sw_done (hstore.trans hw), ?_⟩,
        fun hm => exec_sw_absent (hstore.trans (memWrite_unmapped hm))⟩
      rw [← memWrite_done_pc hw]
      exact setPc_spec u _
    | violation => exact raises_of_exec_eq_raise (exec_sw_violation (store_of_violation (htr.trans ha)))
  case fetch =>
    have htr := translate_user s s.pc .fetch hu
    rw [step_not_deliverable hd]
    cases ha : Config.userAccess s.sprs s.mem s.pc .fetch with
    | physical p =>
      have hf : s.fetch = s.memRead p := load_of_physical (htr.trans ha)
      exact ⟨hf, fun hm => instructionStep_absent (hf.trans (memRead_unmapped hm))⟩
    | violation =>
      exact ⟨_, instructionStep_violation (load_of_violation (htr.trans ha)), trapEntry_spec s _ _⟩

end Sys2Proof.Machine
end

section
/-! PROOFS. What every step keeps and what it can change: memory, the surroundings, the special registers and the mode; and
that a step completes where memory is mapped. -/

namespace Sys2Proof.Machine

/-! ### What a next state of `exec` has changed, part by part -/

section
variable {i : Instr} {s t : State}

/-- Memory is as before, or one word of it is set by `sw`. -/
theorem NextOf.mem_cases (h : NextOf i s t) : t.mem = s.mem ∨
    ∃ rd rs off p, i = .sw rd rs off ∧ s.translate (effectiveAddr (s.readReg rs) off) .store = .physical p ∧
      t.mem = Memory.setWord s.mem p (s.readReg rd) := by
  cases h with
  | stores rd rs off p hi hp => exact .inr ⟨rd, rs, off, p, hi, hp, rfl⟩
  | _ => exact .inl rfl

/-- The memory map and the pending lines are as before, and the device log has grown at its end. -/
theorem NextOf.surroundings (h : NextOf i s t) :
    t.memMap = s.memMap ∧ t.pending = s.pending ∧ ∃ l, t.deviceLog = s.deviceLog ++ l := by
  cases h with
  | loadsDevice | storesDevice => exact ⟨rfl, rfl, _, rfl⟩
  | _ => exact ⟨rfl, rfl, [], (List.append_nil _).symm⟩

/-- The special registers are as before but for a trap entry, and in kernel mode `movgs` and `rfe`. -/
theorem NextOf.sprs_cases (h : NextOf i s t) : SprsSame s t ∨ (∃ e, t = s.raise e) ∨
    s.ku = .kernel ∧ ((∃ rd rs, i = .movgs rd rs ∧ WritesSpr s rd (s.readReg rs) t) ∨ i = .rfe ∧ ReturnsFromTrap s t) := by
  cases h with
  | raises e => exact .inr (.inl ⟨e, rfl⟩)
  | writesSpecial rd rs hi hk => exact .inr (.inr ⟨hk, .inl ⟨rd, rs, hi, writeSpr_advance_spec s rd _⟩⟩)
  | returns hi hk => exact .inr (.inr ⟨hk, .inr ⟨hi, returnFromTrap_spec s⟩⟩)
  | _ => exact .inl fun _ => rfl

end

/-! ### What precedes the instruction -/

/-- `t` differs from `s` at most outside the CPU and memory. -/
structure CpuSame (s t : State) : Prop where
  regs : t.regs = s.regs
  pc : t.pc = s.pc
  sprs : t.sprs = s.sprs
  mem : t.mem = s.mem

theorem CpuSame.readReg {s t : State} (h : CpuSame s t) (r : RegId) : t.readReg r = s.readReg r := by
  simp only [State.readReg, h.regs]

theorem CpuSame.readSpr {s t : State} (h : CpuSame s t) (i : RegId) : t.readSpr i = s.readSpr i := by
  simp only [State.readSpr, h.sprs]

theorem cpuSame_of_notTaken {s s0 : State} (h : s.sampleInterrupt = .notTaken s0) : CpuSame s s0 := by
  rcases sampleInterrupt_notTaken h with rfl | rfl <;> exact ⟨rfl, rfl, rfl, rfl⟩

theorem cpuSame_of_fetched {s s0 s1 : State} {w : Word} (h0 : s.sampleInterrupt = .notTaken s0)
    (hf : s0.fetch = .done w s1) : CpuSame s s1 := by
  obtain ⟨hregs, hpc, hsprs, hmem, _⟩ := fetched_spec h0 hf
  exact ⟨hregs, hpc, hsprs, hmem⟩

/-! ### Memory -/

/-- Memory after a step is memory before it, or that with one word set by the `sw` whose word was fetched. -/
theorem step_mem_cases {s t : State} (h : step s = .next t) : t.mem = s.mem ∨
    ∃ (s0 s1 : State) (rd rs : RegId) (off : Imm20) (p : Addr),
      s.sampleInterrupt = .notTaken s0 ∧ s0.fetch = .done (encode (.sw rd rs off)) s1 ∧
      s1.translate (effectiveAddr (s1.readReg rs) off) .store = .physical p ∧
      t.mem = Memory.setWord s.mem p (s1.readReg rd) := by
  cases step_next_cases h with
  | interrupt => exact .inl rfl
  | fetchViolation s0 h0 => exact .inl (cpuSame_of_notTaken h0).mem
  | illegal s0 s1 w h0 hf => exact .inl (cpuSame_of_fetched h0 hf).mem
  | runs s0 s1 w i _ h0 hf hi ht =>
    rw [← (cpuSame_of_fetched h0 hf).mem]
    rcases (exec_next_cases ht).mem_cases with hsame | ⟨rd, rs, off, p, rfl, hp, hset⟩
    · obtain ⟨_, _, _, hcount, _⟩ := countedFor_spec s1 i
      exact .inl (hsame.trans hcount)
    · rw [← encodeOfDecodedWordIsTheWord w _ hi] at hf
      exact .inr ⟨s0, s1, rd, rs, off, p, h0, hf, hp, hset⟩

/-- Settles O11: a word store keeps the canonical form, and a step makes at most one. -/
theorem everyStepKeepsMemoryCanonical : Obligations.EveryStepKeepsMemoryCanonical := by
  intro s t hinv h
  unfold Inv at hinv ⊢
  rcases step_mem_cases h with hmem | ⟨_, _, _, _, _, _, _, _, _, hmem⟩
  · rw [hmem, hinv]
  · rw [hmem, Memory.wf_setWord _ _ _ hinv]

/-- Settles O54: a step makes at most one word store, which changes the four bytes of its word alone. -/
theorem onlyAStoreChangesMemory : Obligations.OnlyAStoreChangesMemory := by
  intro s t h
  rcases step_mem_cases h with hmem | ⟨s0, s1, rd, rs, off, p, h0, hf, hp, hmem⟩
  · exact .inl fun k => by rw [hmem]
  · refine .inr ⟨s0, s1, rd, rs, off, p, h0, hf, hp, ?_, fun k hk => ?_⟩
    · rw [hmem, Memory.word_setWord_same]
    · rw [hmem, Memory.byte_setWord_other _ _ _ _ hk]

/-! ### The surroundings -/

/-- Settles O60: sampling, the fetch, the counting and the instruction each keep the map and the lines and only add to the
device log. -/
theorem stepKeepsTheSurroundings : Obligations.StepKeepsTheSurroundings := by
  intro s t h
  cases step_next_cases h with
  | interrupt => exact ⟨rfl, rfl, [], (List.append_nil _).symm⟩
  | fetchViolation s0 h0 =>
    rcases sampleInterrupt_notTaken h0 with rfl | rfl <;> exact ⟨rfl, rfl, [], (List.append_nil _).symm⟩
  | illegal s0 s1 w h0 hf =>
    obtain ⟨_, _, _, _, hpending, hmap, hlog⟩ := fetched_spec h0 hf
    exact ⟨hmap, hpending, hlog⟩
  | runs s0 s1 w i _ h0 hf hi ht =>
    obtain ⟨_, _, _, _, hpending, hmap, l, hlog⟩ := fetched_spec h0 hf
    obtain ⟨_, _, _, _, hpending', hmap', hlog'⟩ := countedFor_spec s1 i
    obtain ⟨hmap'', hpending'', l', hlog''⟩ := (exec_next_cases ht).surroundings
    refine ⟨hmap''.trans (hmap'.trans hmap), hpending''.trans (hpending'.trans hpending), l ++ l', ?_⟩
    rw [hlog'', hlog', hlog, List.append_assoc]

/-! ### Special registers and the mode -/

/-- What a user-mode step can do to the special registers: nothing, or a trap entry, taken with the CPU and memory of the
state the step began in. -/
theorem step_user_cases {s t : State} (hu : s.ku = .user) (h : step s = .next t) : SprsSame s t ∨
    ∃ s1 c ret, CpuSame s s1 ∧ TrapTaken s1 c ret t ∧
      (ret = s.pc + 1#20 ∧ (∃ e, c = .exception e) ∨ ret = s.pc ∧ c = .exception .accessViolation ∨
        ret = s.pc ∧ c = .interrupt s.deliverable ∧ s.deliverable ≠ 0#8) := by
  cases step_next_cases h with
  | interrupt hd =>
    exact .inr ⟨s.drawn, _, _, ⟨rfl, rfl, rfl, rfl⟩, trapEntry_spec _ _ _, .inr (.inr ⟨rfl, rfl, hd⟩)⟩
  | fetchViolation s0 h0 =>
    have hsame := cpuSame_of_notTaken h0
    exact .inr ⟨s0, _, _, hsame, trapEntry_spec _ _ _, .inr (.inl ⟨hsame.pc, rfl⟩)⟩
  | illegal s0 s1 w h0 hf =>
    have hsame := cpuSame_of_fetched h0 hf
    exact .inr ⟨s1, _, _, hsame, raise_spec _ _, .inl ⟨congrArg nextAddr hsame.pc, _, rfl⟩⟩
  | runs s0 s1 w i _ h0 hf hi ht =>
    have hsame := cpuSame_of_fetched h0 hf
    have hu1 : s1.ku = .user := by
      obtain ⟨_, hku, _⟩ := control_of_readSpr (hsame.readSpr sprCtrl)
      rw [hku, hu]
    rw [countedFor_eq_self (.inl hu1)] at ht
    rcases (exec_next_cases ht).sprs_cases with hsprs | ⟨e, rfl⟩ | ⟨hk, _⟩
    · exact .inl fun j => (hsprs j).trans (hsame.readSpr j)
    · exact .inr ⟨s1, _, _, hsame, raise_spec s1 e, .inl ⟨congrArg nextAddr hsame.pc, e, rfl⟩⟩
    · rw [hu1] at hk
      cases hk

/-- Settles O55: a trap entry taken with the CPU and memory of the state the step began in is one of that state. -/
theorem userModeChangesSpecialRegistersOnlyByTrap : Obligations.UserModeChangesSpecialRegistersOnlyByTrap := by
  intro s t hu h
  rcases step_user_cases hu h with hsprs | ⟨s1, c, ret, hsame, htrap, hcause⟩
  · exact .inl hsprs
  · obtain ⟨hoie, hoku, hie, hku, hear, hestat, hpc, hbits, hsprs, hregs, hmem, _⟩ := htrap
    obtain ⟨hie1, hku1, _⟩ := control_of_readSpr (hsame.readSpr sprCtrl)
    have hhandler : s1.handlerAddress = s.handlerAddress := congrArg low20 (hsame.readSpr sprEvec)
    refine .inr ⟨hku, hie, by rw [hoku, hku1, hu], by rw [hoie, hie1], by rw [hpc, hhandler],
      ⟨c, ret, hear, hestat, hcause⟩, fun n hn => ?_, fun j h1 h2 h3 => ?_, fun r => ?_, fun k => ?_⟩
    · rw [hbits n hn, hsame.readSpr]
    · rw [hsprs j h1 h2 h3, hsame.readSpr]
    · rw [hregs r, hsame.readReg]
    · rw [hmem k, hsame.mem]

/-- Settles O56: trap entry ends in kernel mode, and of the instructions only `movgs` to the control register and `rfe` change
the mode; `rfe` sets it to OKU. -/
theorem userModeIsEnteredOnlyByRfeOrControlWrite : Obligations.UserModeIsEnteredOnlyByRfeOrControlWrite := by
  intro s t hk h hu
  have hnot : t.ku ≠ .kernel := by rw [hu]; decide
  cases step_next_cases h with
  | interrupt | fetchViolation | illegal => exact absurd (trapEntry_ku _ _ _) hnot
  | runs s0 s1 w i _ h0 hf hi ht =>
    obtain ⟨_, hku1, _, hoku1⟩ := control_of_readSpr ((cpuSame_of_fetched h0 hf).readSpr sprCtrl)
    obtain ⟨_, hku2, _, hoku2⟩ := countedFor_control s1 i
    have hkernel : (s1.countedFor i).ku = .kernel := by rw [hku2, hku1, hk]
    have hmode (hctrl : t.readSpr sprCtrl = (s1.countedFor i).readSpr sprCtrl) : t.ku = .kernel := by
      obtain ⟨_, hku, _⟩ := control_of_readSpr hctrl
      rw [hku, hkernel]
    have hword := encodeOfDecodedWordIsTheWord w i hi
    refine ⟨s0, s1, h0, ?_⟩
    rcases (exec_next_cases ht).sprs_cases with
      hsprs | ⟨e, rfl⟩ | ⟨_, ⟨rd, rs, rfl, _, _, hspr, _⟩ | ⟨rfl, _, hku, _⟩⟩
    · exact absurd (hmode (hsprs sprCtrl)) hnot
    · exact absurd (trapEntry_ku _ _ _) hnot
    · by_cases hrd : sprCtrl = rd
      · subst hrd
        exact .inr ⟨rs, hword ▸ hf⟩
      · exact absurd (hmode (by rw [hspr, if_neg hrd])) hnot
    · exact .inl ⟨hword ▸ hf, by rw [← hoku1, ← hoku2, ← hku, hu]⟩

theorem sprsSame_of_next {s t u : State} (h : (.next u : Result) = .next t) (hu : SprsSame s u) : SprsSame s t := by
  injection h with h
  exact h ▸ hu

theorem sprsSame_of_writeNext {s t : State} {rd : RegId} {v : Word} (h : s.writeNext rd v = .next t) : SprsSame s t :=
  sprsSame_of_next h fun _ => rfl

theorem sprsSame_of_lw_kernel {s t : State} {rd rs : RegId} {off : Imm20} (hk : s.ku = .kernel)
    (h : exec (.lw rd rs off) s = .next t) : SprsSame s t := by
  rcases memRead_cases s (effectiveAddr (s.readReg rs) off) with ⟨_, hr⟩ | ⟨_, hr⟩ | ⟨_, hr⟩
  · rw [exec_lw_done ((load_kernel hk).trans hr)] at h
    exact sprsSame_of_writeNext h
  · rw [exec_lw_done ((load_kernel hk).trans hr)] at h
    exact sprsSame_of_writeNext (s := (s.logDevice _).drawn) h
  · rw [exec_lw_absent ((load_kernel hk).trans hr)] at h
    cases h

theorem sprsSame_of_sw_kernel {s t : State} {rd rs : RegId} {off : Imm20} (hk : s.ku = .kernel)
    (h : exec (.sw rd rs off) s = .next t) : SprsSame s t := by
  rcases memWrite_cases s (effectiveAddr (s.readReg rs) off) (s.readReg rd) with ⟨_, hw⟩ | ⟨_, hw⟩ | ⟨_, hw⟩
  · rw [exec_sw_done ((store_kernel hk).trans hw)] at h
    exact sprsSame_of_next h fun _ => rfl
  · rw [exec_sw_done ((store_kernel hk).trans hw)] at h
    exact sprsSame_of_next h fun _ => rfl
  · rw [exec_sw_absent ((store_kernel hk).trans hw)] at h
    cases h

/-- Settles O59: each of these instructions ends in a register write, a jump or, in kernel mode, a memory access, none of
which writes a special register. -/
theorem exceptionFreeInstructionsKeepSpecialRegisters : Obligations.ExceptionFreeInstructionsKeepSpecialRegisters := by
  intro i s t hk hi h
  cases i with
  | lw => exact sprsSame_of_lw_kernel hk h
  | sw => exact sprsSame_of_sw_kernel hk h
  | movsg rd rs =>
    cases himpl : sprImplemented rs with
    | true => exact sprsSame_of_writeNext (exec_movsg_kernel hk himpl ▸ h)
    | false =>
      rw [exec_movsg_not_implemented hk himpl] at h
      cases h
  | jalr rs =>
    by_cases hrs : rs = 15#4
    · rw [hrs, jalrThroughTheLinkRegisterIsRefused s] at h
      cases h
    · rw [exec_jalr hrs] at h
      exact sprsSame_of_next h fun _ => rfl
  | j | jr | jal | beqz | bnez => exact sprsSame_of_next h fun _ => rfl
  | and | andi | or | ori | xor | xori | sll | slli | srl | srli | sra | srai | lhi | la
  | slt | slti | sltu | sltui | sgt | sgti | sgtu | sgtui | sle | slei | sleu | sleui | sge | sgei | sgeu | sgeui
  | seq | seqi | sequ | sequi | sne | snei | sneu | sneui => exact sprsSame_of_writeNext h
  | _ => cases hi

/-! ### Completion -/

theorem load_absent {s : State} {a p : Addr} {k : Config.AccessKind} (h : s.load a k = .absent p) :
    kindAt s.memMap p = .unmapped := by
  unfold State.load at h
  split at h
  · next q _ =>
    rcases memRead_cases s q with ⟨_, e⟩ | ⟨_, e⟩ | ⟨hm, e⟩ <;> rw [e] at h <;> cases h
    exact hm
  · cases h

/-- Settles O58: the refusals of `exec` are those of the ill-formed operands, and in kernel mode each of these is refused. -/
theorem wellFormedInstructionsAreNeverRefused : Obligations.WellFormedInstructionsAreNeverRefused := by
  refine fun i s => ⟨fun hwf r h => ?_, fun hwf hk => ?_⟩
  · rcases exec_refused_cases h with rfl | ⟨_, a, b, himpl, rfl | rfl⟩
    · cases hwf
    · exact absurd hwf (by simpa [WellFormed, Instr.wellFormed] using himpl)
    · exact absurd hwf (by simpa [WellFormed, Instr.wellFormed] using himpl)
  · cases i with
    | jalr rs =>
      obtain rfl : rs = 15#4 := by simpa [WellFormed, Instr.wellFormed] using hwf
      exact ⟨_, jalrThroughTheLinkRegisterIsRefused s⟩
    | movgs rd rs => exact ⟨_, exec_movgs_not_implemented hk (Bool.not_eq_true _ ▸ hwf)⟩
    | movsg rd rs => exact ⟨_, exec_movsg_not_implemented hk (Bool.not_eq_true _ ▸ hwf)⟩
    | _ => exact absurd rfl hwf

/-- Over a map with something at every address, the instruction part of a step completes unless it fetches an ill-formed
instruction. -/
theorem instructionStep_completes {s : State} (hmap : MapTotal s) (hwf : FetchesWellFormed s) :
    ∃ t, instructionStep s = .next t := by
  cases hf : s.fetch with
  | violation => exact ⟨_, instructionStep_violation hf⟩
  | absent a => exact absurd (load_absent hf) (hmap a)
  | done w s1 =>
    cases hi : decode w with
    | error e => exact ⟨_, instructionStep_illegal hf hi⟩
    | ok i =>
      rw [instructionStep_runs hf hi]
      cases ht : exec i (s1.countedFor i) with
      | next t => exact ⟨t, rfl⟩
      | refused r => exact absurd ht ((wellFormedInstructionsAreNeverRefused i _).1 (hwf w s1 i hf hi) r)
      | fault f =>
        obtain ⟨a, k, _, hm⟩ := exec_fault_cases ht
        obtain ⟨_, _, _, _, _, hmap1, _⟩ := countedFor_spec s1 i
        have hmap0 : s1.memMap = s.memMap := by rcases fetch_done hf with rfl | ⟨p, rfl⟩ <;> rfl
        rw [hmap1, hmap0] at hm
        exact absurd hm (hmap a)

/-- Settles O57: a step is a trap entry, or the instruction part from the state or from the state with the draw counted. -/
theorem machineNeverStopsWhereMemoryIsMapped : Obligations.MachineNeverStopsWhereMemoryIsMapped := by
  intro s hmap hwf hwf'
  rcases sampleInterrupt_cases s with ⟨_, hs⟩ | ⟨_, _, hs⟩ | ⟨_, _, hs⟩
  · rw [step_notTaken hs]
    exact instructionStep_completes hmap hwf
  · exact ⟨_, step_taken hs⟩
  · rw [step_notTaken hs]
    exact instructionStep_completes hmap hwf'

end Sys2Proof.Machine
end
